-- ==== Sys2Proof/Word.lean ====
section
/-! DEFINITION. The word types of the machine (00_scope.md R10, R11). -/

namespace Sys2Proof

/-- A byte: the data width of both buses and of `A`, `X`, `Y`, `S`, `P` (R10). -/
abbrev Byte := BitVec 8

/-- A main-bus address (R10). -/
abbrev Addr := BitVec 16

/-- A picture-bus address (R10), also the width of the latches `v` and `t` (10_state.md R56). -/
abbrev PicAddr := BitVec 14

/-- A byte array held as the cells that differ from 0x00, in rising order of index
(`Memory.wf` in Machine/Memory.lean). Each array of the machine (RAM, VRAM, OAM, PRG, CHR) is one. -/
abbrev Memory := List Host.Cell

end Sys2Proof
end

