-- ==== Sys2Proof/Machine/Bits.lean ====
section
/-! DEFINITION. Byte order and extension helpers (00_scope.md R11, 20_memory.md R97). -/

namespace Sys2Proof.Machine

/-- `hi ++ lo`: the word whose byte at the lower address is `lo` (R97). -/
def wordOf (lo hi : Byte) : Addr := hi ++ lo

/-- `a[15:8]` (R11). -/
def hiByte (a : Addr) : Byte := a.extractLsb' 8 8

/-- `a[7:0]` (R11). -/
def loByte (a : Addr) : Byte := a.extractLsb' 0 8

/-- `zext_16` of a byte (R11). -/
def zext16 (b : Byte) : Addr := b.zeroExtend 16

/-- `sext_16` of a byte: the one signed reading of the machine (R11). -/
def sext16 (b : Byte) : Addr := b.signExtend 16

/-- `0x0100 | S`: the address of the next free stack byte (00_scope.md R16, 10_state.md R31). -/
def stackAddr (s : Byte) : Addr := 0x0100#16 ||| zext16 s

/-- Do two addresses lie in different 256-byte pages (30_encoding.md R128)? -/
def pageDiffers (a b : Addr) : Bool := hiByte a != hiByte b

end Sys2Proof.Machine
end

