-- ==== Sys2Proof/Syntax.lean ====
section
/-! DEFINITION. The instructions: one constructor per row of spec/opcode_table.json (30_encoding.md R133), the 56
mnemonics and the operand shapes of the addressing modes (R120, R123 to R132). -/

namespace Sys2Proof

/-- The mnemonics of R133. -/
inductive Mnemonic where
  | lda
  | ldx
  | ldy
  | sta
  | stx
  | sty
  | tax
  | tay
  | txa
  | tya
  | tsx
  | txs
  | adc
  | sbc
  | and
  | ora
  | eor
  | cmp
  | cpx
  | cpy
  | bit
  | inc
  | dec
  | inx
  | iny
  | dex
  | dey
  | asl
  | lsr
  | rol
  | ror
  | jmp
  | jsr
  | rts
  | bcc
  | bcs
  | beq
  | bne
  | bmi
  | bpl
  | bvc
  | bvs
  | pha
  | php
  | pla
  | plp
  | clc
  | sec
  | cli
  | sei
  | clv
  | cld
  | sed
  | nop
  | brk
  | rti
  deriving DecidableEq, Repr

/-- A memory addressing mode with its operand bytes (R125 to R130). -/
inductive MemMode where
  | zp (z : Byte)
  | zpx (z : Byte)
  | zpy (z : Byte)
  | abs (a : Addr)
  | abx (a : Addr)
  | aby (a : Addr)
  | izx (z : Byte)
  | izy (z : Byte)
  deriving DecidableEq, Repr

/-- An operand: none (IMP), the accumulator (ACC), an immediate byte (IMM), a memory mode, a pointer
(IND) or a displacement (REL) (R123 to R132). -/
inductive Operand where
  | imp
  | acc
  | imm (b : Byte)
  | mem (m : MemMode)
  | ind (ptr : Addr)
  | rel (d : Byte)
  deriving DecidableEq, Repr

/-- The instructions of R133, in the order of their opcode bytes. -/
inductive Instr where
  | brk
  | oraIzx (z : Byte)
  | oraZp (z : Byte)
  | aslZp (z : Byte)
  | php
  | oraImm (imm : Byte)
  | aslAcc
  | oraAbs (a : Addr)
  | aslAbs (a : Addr)
  | bpl (d : Byte)
  | oraIzy (z : Byte)
  | oraZpx (z : Byte)
  | aslZpx (z : Byte)
  | clc
  | oraAby (a : Addr)
  | oraAbx (a : Addr)
  | aslAbx (a : Addr)
  | jsr (a : Addr)
  | andIzx (z : Byte)
  | bitZp (z : Byte)
  | andZp (z : Byte)
  | rolZp (z : Byte)
  | plp
  | andImm (imm : Byte)
  | rolAcc
  | bitAbs (a : Addr)
  | andAbs (a : Addr)
  | rolAbs (a : Addr)
  | bmi (d : Byte)
  | andIzy (z : Byte)
  | andZpx (z : Byte)
  | rolZpx (z : Byte)
  | sec
  | andAby (a : Addr)
  | andAbx (a : Addr)
  | rolAbx (a : Addr)
  | rti
  | eorIzx (z : Byte)
  | eorZp (z : Byte)
  | lsrZp (z : Byte)
  | pha
  | eorImm (imm : Byte)
  | lsrAcc
  | jmpAbs (a : Addr)
  | eorAbs (a : Addr)
  | lsrAbs (a : Addr)
  | bvc (d : Byte)
  | eorIzy (z : Byte)
  | eorZpx (z : Byte)
  | lsrZpx (z : Byte)
  | cli
  | eorAby (a : Addr)
  | eorAbx (a : Addr)
  | lsrAbx (a : Addr)
  | rts
  | adcIzx (z : Byte)
  | adcZp (z : Byte)
  | rorZp (z : Byte)
  | pla
  | adcImm (imm : Byte)
  | rorAcc
  | jmpInd (ptr : Addr)
  | adcAbs (a : Addr)
  | rorAbs (a : Addr)
  | bvs (d : Byte)
  | adcIzy (z : Byte)
  | adcZpx (z : Byte)
  | rorZpx (z : Byte)
  | sei
  | adcAby (a : Addr)
  | adcAbx (a : Addr)
  | rorAbx (a : Addr)
  | staIzx (z : Byte)
  | styZp (z : Byte)
  | staZp (z : Byte)
  | stxZp (z : Byte)
  | dey
  | txa
  | styAbs (a : Addr)
  | staAbs (a : Addr)
  | stxAbs (a : Addr)
  | bcc (d : Byte)
  | staIzy (z : Byte)
  | styZpx (z : Byte)
  | staZpx (z : Byte)
  | stxZpy (z : Byte)
  | tya
  | staAby (a : Addr)
  | txs
  | staAbx (a : Addr)
  | ldyImm (imm : Byte)
  | ldaIzx (z : Byte)
  | ldxImm (imm : Byte)
  | ldyZp (z : Byte)
  | ldaZp (z : Byte)
  | ldxZp (z : Byte)
  | tay
  | ldaImm (imm : Byte)
  | tax
  | ldyAbs (a : Addr)
  | ldaAbs (a : Addr)
  | ldxAbs (a : Addr)
  | bcs (d : Byte)
  | ldaIzy (z : Byte)
  | ldyZpx (z : Byte)
  | ldaZpx (z : Byte)
  | ldxZpy (z : Byte)
  | clv
  | ldaAby (a : Addr)
  | tsx
  | ldyAbx (a : Addr)
  | ldaAbx (a : Addr)
  | ldxAby (a : Addr)
  | cpyImm (imm : Byte)
  | cmpIzx (z : Byte)
  | cpyZp (z : Byte)
  | cmpZp (z : Byte)
  | decZp (z : Byte)
  | iny
  | cmpImm (imm : Byte)
  | dex
  | cpyAbs (a : Addr)
  | cmpAbs (a : Addr)
  | decAbs (a : Addr)
  | bne (d : Byte)
  | cmpIzy (z : Byte)
  | cmpZpx (z : Byte)
  | decZpx (z : Byte)
  | cld
  | cmpAby (a : Addr)
  | cmpAbx (a : Addr)
  | decAbx (a : Addr)
  | cpxImm (imm : Byte)
  | sbcIzx (z : Byte)
  | cpxZp (z : Byte)
  | sbcZp (z : Byte)
  | incZp (z : Byte)
  | inx
  | sbcImm (imm : Byte)
  | nop
  | cpxAbs (a : Addr)
  | sbcAbs (a : Addr)
  | incAbs (a : Addr)
  | beq (d : Byte)
  | sbcIzy (z : Byte)
  | sbcZpx (z : Byte)
  | incZpx (z : Byte)
  | sed
  | sbcAby (a : Addr)
  | sbcAbx (a : Addr)
  | incAbx (a : Addr)
  deriving DecidableEq, Repr

end Sys2Proof
end

