-- ==== Sys2Proof/Decode.lean ====
section
/-! DEFINITION. Decoding and encoding (30_encoding.md R120 to R122, R133 to R137). -/

namespace Sys2Proof

open Sys2Proof.Machine (wordOf loByte hiByte)

/-- The three formats (R120): the instruction that follows from the opcode and its operand bytes. -/
inductive Form where
  | f1 (i : Instr)
  | f2 (mk : Byte → Instr)
  | f3 (mk : Addr → Instr)

/-- Row 0 of the opcode matrix (R133). -/
def opcodeRow0 : List (Byte × Form) :=
  [ (0x00, .f1 .brk), (0x01, .f2 .oraIzx), (0x05, .f2 .oraZp), (0x06, .f2 .aslZp),
    (0x08, .f1 .php), (0x09, .f2 .oraImm), (0x0A, .f1 .aslAcc), (0x0D, .f3 .oraAbs),
    (0x0E, .f3 .aslAbs) ]

/-- Row 1 of the opcode matrix (R133). -/
def opcodeRow1 : List (Byte × Form) :=
  [ (0x10, .f2 .bpl), (0x11, .f2 .oraIzy), (0x15, .f2 .oraZpx), (0x16, .f2 .aslZpx),
    (0x18, .f1 .clc), (0x19, .f3 .oraAby), (0x1D, .f3 .oraAbx), (0x1E, .f3 .aslAbx) ]

/-- Row 2 of the opcode matrix (R133). -/
def opcodeRow2 : List (Byte × Form) :=
  [ (0x20, .f3 .jsr), (0x21, .f2 .andIzx), (0x24, .f2 .bitZp), (0x25, .f2 .andZp),
    (0x26, .f2 .rolZp), (0x28, .f1 .plp), (0x29, .f2 .andImm), (0x2A, .f1 .rolAcc),
    (0x2C, .f3 .bitAbs), (0x2D, .f3 .andAbs), (0x2E, .f3 .rolAbs) ]

/-- Row 3 of the opcode matrix (R133). -/
def opcodeRow3 : List (Byte × Form) :=
  [ (0x30, .f2 .bmi), (0x31, .f2 .andIzy), (0x35, .f2 .andZpx), (0x36, .f2 .rolZpx),
    (0x38, .f1 .sec), (0x39, .f3 .andAby), (0x3D, .f3 .andAbx), (0x3E, .f3 .rolAbx) ]

/-- Row 4 of the opcode matrix (R133). -/
def opcodeRow4 : List (Byte × Form) :=
  [ (0x40, .f1 .rti), (0x41, .f2 .eorIzx), (0x45, .f2 .eorZp), (0x46, .f2 .lsrZp),
    (0x48, .f1 .pha), (0x49, .f2 .eorImm), (0x4A, .f1 .lsrAcc), (0x4C, .f3 .jmpAbs),
    (0x4D, .f3 .eorAbs), (0x4E, .f3 .lsrAbs) ]

/-- Row 5 of the opcode matrix (R133). -/
def opcodeRow5 : List (Byte × Form) :=
  [ (0x50, .f2 .bvc), (0x51, .f2 .eorIzy), (0x55, .f2 .eorZpx), (0x56, .f2 .lsrZpx),
    (0x58, .f1 .cli), (0x59, .f3 .eorAby), (0x5D, .f3 .eorAbx), (0x5E, .f3 .lsrAbx) ]

/-- Row 6 of the opcode matrix (R133). -/
def opcodeRow6 : List (Byte × Form) :=
  [ (0x60, .f1 .rts), (0x61, .f2 .adcIzx), (0x65, .f2 .adcZp), (0x66, .f2 .rorZp),
    (0x68, .f1 .pla), (0x69, .f2 .adcImm), (0x6A, .f1 .rorAcc), (0x6C, .f3 .jmpInd),
    (0x6D, .f3 .adcAbs), (0x6E, .f3 .rorAbs) ]

/-- Row 7 of the opcode matrix (R133). -/
def opcodeRow7 : List (Byte × Form) :=
  [ (0x70, .f2 .bvs), (0x71, .f2 .adcIzy), (0x75, .f2 .adcZpx), (0x76, .f2 .rorZpx),
    (0x78, .f1 .sei), (0x79, .f3 .adcAby), (0x7D, .f3 .adcAbx), (0x7E, .f3 .rorAbx) ]

/-- Row 8 of the opcode matrix (R133). -/
def opcodeRow8 : List (Byte × Form) :=
  [ (0x81, .f2 .staIzx), (0x84, .f2 .styZp), (0x85, .f2 .staZp), (0x86, .f2 .stxZp),
    (0x88, .f1 .dey), (0x8A, .f1 .txa), (0x8C, .f3 .styAbs), (0x8D, .f3 .staAbs),
    (0x8E, .f3 .stxAbs) ]

/-- Row 9 of the opcode matrix (R133). -/
def opcodeRow9 : List (Byte × Form) :=
  [ (0x90, .f2 .bcc), (0x91, .f2 .staIzy), (0x94, .f2 .styZpx), (0x95, .f2 .staZpx),
    (0x96, .f2 .stxZpy), (0x98, .f1 .tya), (0x99, .f3 .staAby), (0x9A, .f1 .txs),
    (0x9D, .f3 .staAbx) ]

/-- Row A of the opcode matrix (R133). -/
def opcodeRowA : List (Byte × Form) :=
  [ (0xA0, .f2 .ldyImm), (0xA1, .f2 .ldaIzx), (0xA2, .f2 .ldxImm), (0xA4, .f2 .ldyZp),
    (0xA5, .f2 .ldaZp), (0xA6, .f2 .ldxZp), (0xA8, .f1 .tay), (0xA9, .f2 .ldaImm),
    (0xAA, .f1 .tax), (0xAC, .f3 .ldyAbs), (0xAD, .f3 .ldaAbs), (0xAE, .f3 .ldxAbs) ]

/-- Row B of the opcode matrix (R133). -/
def opcodeRowB : List (Byte × Form) :=
  [ (0xB0, .f2 .bcs), (0xB1, .f2 .ldaIzy), (0xB4, .f2 .ldyZpx), (0xB5, .f2 .ldaZpx),
    (0xB6, .f2 .ldxZpy), (0xB8, .f1 .clv), (0xB9, .f3 .ldaAby), (0xBA, .f1 .tsx),
    (0xBC, .f3 .ldyAbx), (0xBD, .f3 .ldaAbx), (0xBE, .f3 .ldxAby) ]

/-- Row C of the opcode matrix (R133). -/
def opcodeRowC : List (Byte × Form) :=
  [ (0xC0, .f2 .cpyImm), (0xC1, .f2 .cmpIzx), (0xC4, .f2 .cpyZp), (0xC5, .f2 .cmpZp),
    (0xC6, .f2 .decZp), (0xC8, .f1 .iny), (0xC9, .f2 .cmpImm), (0xCA, .f1 .dex),
    (0xCC, .f3 .cpyAbs), (0xCD, .f3 .cmpAbs), (0xCE, .f3 .decAbs) ]

/-- Row D of the opcode matrix (R133). -/
def opcodeRowD : List (Byte × Form) :=
  [ (0xD0, .f2 .bne), (0xD1, .f2 .cmpIzy), (0xD5, .f2 .cmpZpx), (0xD6, .f2 .decZpx),
    (0xD8, .f1 .cld), (0xD9, .f3 .cmpAby), (0xDD, .f3 .cmpAbx), (0xDE, .f3 .decAbx) ]

/-- Row E of the opcode matrix (R133). -/
def opcodeRowE : List (Byte × Form) :=
  [ (0xE0, .f2 .cpxImm), (0xE1, .f2 .sbcIzx), (0xE4, .f2 .cpxZp), (0xE5, .f2 .sbcZp),
    (0xE6, .f2 .incZp), (0xE8, .f1 .inx), (0xE9, .f2 .sbcImm), (0xEA, .f1 .nop),
    (0xEC, .f3 .cpxAbs), (0xED, .f3 .sbcAbs), (0xEE, .f3 .incAbs) ]

/-- Row F of the opcode matrix (R133). -/
def opcodeRowF : List (Byte × Form) :=
  [ (0xF0, .f2 .beq), (0xF1, .f2 .sbcIzy), (0xF5, .f2 .sbcZpx), (0xF6, .f2 .incZpx),
    (0xF8, .f1 .sed), (0xF9, .f3 .sbcAby), (0xFD, .f3 .sbcAbx), (0xFE, .f3 .incAbx) ]

/-- The row of the opcode matrix by the opcode byte's high digit (R133). -/
def opcodeRow (hi : Nat) : List (Byte × Form) :=
  match hi with
  | 0 => opcodeRow0
  | 1 => opcodeRow1
  | 2 => opcodeRow2
  | 3 => opcodeRow3
  | 4 => opcodeRow4
  | 5 => opcodeRow5
  | 6 => opcodeRow6
  | 7 => opcodeRow7
  | 8 => opcodeRow8
  | 9 => opcodeRow9
  | 10 => opcodeRowA
  | 11 => opcodeRowB
  | 12 => opcodeRowC
  | 13 => opcodeRowD
  | 14 => opcodeRowE
  | _ => opcodeRowF

/-- The instruction table: 151 entries (R133). -/
def opcodeTable : List (Byte × Form) := (List.range 16).flatMap opcodeRow

/-- The entry of an opcode byte in a list of entries. -/
def findForm (op : Byte) : List (Byte × Form) → Option Form
  | [] => none
  | e :: es => if e.1 = op then some e.2 else findForm op es

/-- The table entry of an opcode byte; `none` for an unmapped one (R121, R135). -/
def decodeOpcode (op : Byte) : Option Form := findForm op (opcodeRow (op.toNat / 16))

/-- What decoding some bytes gives: an instruction and the bytes after it, or a rejection by name. -/
inductive Decoded where
  | ok (i : Instr) (rest : List Byte)
  /-- The opcode byte is one of the 105 unmapped ones (R135). -/
  | unmapped (op : Byte)
  /-- The bytes end before the instruction does. -/
  | truncated
  deriving DecidableEq, Repr

/-- Decode the instruction at the head of some bytes (R120, R122, R137). -/
def decode : List Byte → Decoded
  | [] => .truncated
  | op :: rest =>
    match decodeOpcode op with
    | none => .unmapped op
    | some (.f1 i) => .ok i rest
    | some (.f2 mk) =>
      match rest with
      | b :: rest => .ok (mk b) rest
      | [] => .truncated
    | some (.f3 mk) =>
      match rest with
      | lo :: hi :: rest => .ok (mk (wordOf lo hi)) rest
      | _ => .truncated

/-- The descriptor of an instruction: opcode byte, mnemonic, operand (R121). -/
structure Descriptor where
  opcode : Byte
  mnemonic : Mnemonic
  operand : Operand
  deriving DecidableEq, Repr

/-- The descriptor of each instruction, from the table of R133. -/
def describe : Instr → Descriptor
  | .brk => ⟨0x00, .brk, .imp⟩
  | .oraIzx z => ⟨0x01, .ora, (.mem (.izx z))⟩
  | .oraZp z => ⟨0x05, .ora, (.mem (.zp z))⟩
  | .aslZp z => ⟨0x06, .asl, (.mem (.zp z))⟩
  | .php => ⟨0x08, .php, .imp⟩
  | .oraImm imm => ⟨0x09, .ora, (.imm imm)⟩
  | .aslAcc => ⟨0x0A, .asl, .acc⟩
  | .oraAbs a => ⟨0x0D, .ora, (.mem (.abs a))⟩
  | .aslAbs a => ⟨0x0E, .asl, (.mem (.abs a))⟩
  | .bpl d => ⟨0x10, .bpl, (.rel d)⟩
  | .oraIzy z => ⟨0x11, .ora, (.mem (.izy z))⟩
  | .oraZpx z => ⟨0x15, .ora, (.mem (.zpx z))⟩
  | .aslZpx z => ⟨0x16, .asl, (.mem (.zpx z))⟩
  | .clc => ⟨0x18, .clc, .imp⟩
  | .oraAby a => ⟨0x19, .ora, (.mem (.aby a))⟩
  | .oraAbx a => ⟨0x1D, .ora, (.mem (.abx a))⟩
  | .aslAbx a => ⟨0x1E, .asl, (.mem (.abx a))⟩
  | .jsr a => ⟨0x20, .jsr, (.mem (.abs a))⟩
  | .andIzx z => ⟨0x21, .and, (.mem (.izx z))⟩
  | .bitZp z => ⟨0x24, .bit, (.mem (.zp z))⟩
  | .andZp z => ⟨0x25, .and, (.mem (.zp z))⟩
  | .rolZp z => ⟨0x26, .rol, (.mem (.zp z))⟩
  | .plp => ⟨0x28, .plp, .imp⟩
  | .andImm imm => ⟨0x29, .and, (.imm imm)⟩
  | .rolAcc => ⟨0x2A, .rol, .acc⟩
  | .bitAbs a => ⟨0x2C, .bit, (.mem (.abs a))⟩
  | .andAbs a => ⟨0x2D, .and, (.mem (.abs a))⟩
  | .rolAbs a => ⟨0x2E, .rol, (.mem (.abs a))⟩
  | .bmi d => ⟨0x30, .bmi, (.rel d)⟩
  | .andIzy z => ⟨0x31, .and, (.mem (.izy z))⟩
  | .andZpx z => ⟨0x35, .and, (.mem (.zpx z))⟩
  | .rolZpx z => ⟨0x36, .rol, (.mem (.zpx z))⟩
  | .sec => ⟨0x38, .sec, .imp⟩
  | .andAby a => ⟨0x39, .and, (.mem (.aby a))⟩
  | .andAbx a => ⟨0x3D, .and, (.mem (.abx a))⟩
  | .rolAbx a => ⟨0x3E, .rol, (.mem (.abx a))⟩
  | .rti => ⟨0x40, .rti, .imp⟩
  | .eorIzx z => ⟨0x41, .eor, (.mem (.izx z))⟩
  | .eorZp z => ⟨0x45, .eor, (.mem (.zp z))⟩
  | .lsrZp z => ⟨0x46, .lsr, (.mem (.zp z))⟩
  | .pha => ⟨0x48, .pha, .imp⟩
  | .eorImm imm => ⟨0x49, .eor, (.imm imm)⟩
  | .lsrAcc => ⟨0x4A, .lsr, .acc⟩
  | .jmpAbs a => ⟨0x4C, .jmp, (.mem (.abs a))⟩
  | .eorAbs a => ⟨0x4D, .eor, (.mem (.abs a))⟩
  | .lsrAbs a => ⟨0x4E, .lsr, (.mem (.abs a))⟩
  | .bvc d => ⟨0x50, .bvc, (.rel d)⟩
  | .eorIzy z => ⟨0x51, .eor, (.mem (.izy z))⟩
  | .eorZpx z => ⟨0x55, .eor, (.mem (.zpx z))⟩
  | .lsrZpx z => ⟨0x56, .lsr, (.mem (.zpx z))⟩
  | .cli => ⟨0x58, .cli, .imp⟩
  | .eorAby a => ⟨0x59, .eor, (.mem (.aby a))⟩
  | .eorAbx a => ⟨0x5D, .eor, (.mem (.abx a))⟩
  | .lsrAbx a => ⟨0x5E, .lsr, (.mem (.abx a))⟩
  | .rts => ⟨0x60, .rts, .imp⟩
  | .adcIzx z => ⟨0x61, .adc, (.mem (.izx z))⟩
  | .adcZp z => ⟨0x65, .adc, (.mem (.zp z))⟩
  | .rorZp z => ⟨0x66, .ror, (.mem (.zp z))⟩
  | .pla => ⟨0x68, .pla, .imp⟩
  | .adcImm imm => ⟨0x69, .adc, (.imm imm)⟩
  | .rorAcc => ⟨0x6A, .ror, .acc⟩
  | .jmpInd ptr => ⟨0x6C, .jmp, (.ind ptr)⟩
  | .adcAbs a => ⟨0x6D, .adc, (.mem (.abs a))⟩
  | .rorAbs a => ⟨0x6E, .ror, (.mem (.abs a))⟩
  | .bvs d => ⟨0x70, .bvs, (.rel d)⟩
  | .adcIzy z => ⟨0x71, .adc, (.mem (.izy z))⟩
  | .adcZpx z => ⟨0x75, .adc, (.mem (.zpx z))⟩
  | .rorZpx z => ⟨0x76, .ror, (.mem (.zpx z))⟩
  | .sei => ⟨0x78, .sei, .imp⟩
  | .adcAby a => ⟨0x79, .adc, (.mem (.aby a))⟩
  | .adcAbx a => ⟨0x7D, .adc, (.mem (.abx a))⟩
  | .rorAbx a => ⟨0x7E, .ror, (.mem (.abx a))⟩
  | .staIzx z => ⟨0x81, .sta, (.mem (.izx z))⟩
  | .styZp z => ⟨0x84, .sty, (.mem (.zp z))⟩
  | .staZp z => ⟨0x85, .sta, (.mem (.zp z))⟩
  | .stxZp z => ⟨0x86, .stx, (.mem (.zp z))⟩
  | .dey => ⟨0x88, .dey, .imp⟩
  | .txa => ⟨0x8A, .txa, .imp⟩
  | .styAbs a => ⟨0x8C, .sty, (.mem (.abs a))⟩
  | .staAbs a => ⟨0x8D, .sta, (.mem (.abs a))⟩
  | .stxAbs a => ⟨0x8E, .stx, (.mem (.abs a))⟩
  | .bcc d => ⟨0x90, .bcc, (.rel d)⟩
  | .staIzy z => ⟨0x91, .sta, (.mem (.izy z))⟩
  | .styZpx z => ⟨0x94, .sty, (.mem (.zpx z))⟩
  | .staZpx z => ⟨0x95, .sta, (.mem (.zpx z))⟩
  | .stxZpy z => ⟨0x96, .stx, (.mem (.zpy z))⟩
  | .tya => ⟨0x98, .tya, .imp⟩
  | .staAby a => ⟨0x99, .sta, (.mem (.aby a))⟩
  | .txs => ⟨0x9A, .txs, .imp⟩
  | .staAbx a => ⟨0x9D, .sta, (.mem (.abx a))⟩
  | .ldyImm imm => ⟨0xA0, .ldy, (.imm imm)⟩
  | .ldaIzx z => ⟨0xA1, .lda, (.mem (.izx z))⟩
  | .ldxImm imm => ⟨0xA2, .ldx, (.imm imm)⟩
  | .ldyZp z => ⟨0xA4, .ldy, (.mem (.zp z))⟩
  | .ldaZp z => ⟨0xA5, .lda, (.mem (.zp z))⟩
  | .ldxZp z => ⟨0xA6, .ldx, (.mem (.zp z))⟩
  | .tay => ⟨0xA8, .tay, .imp⟩
  | .ldaImm imm => ⟨0xA9, .lda, (.imm imm)⟩
  | .tax => ⟨0xAA, .tax, .imp⟩
  | .ldyAbs a => ⟨0xAC, .ldy, (.mem (.abs a))⟩
  | .ldaAbs a => ⟨0xAD, .lda, (.mem (.abs a))⟩
  | .ldxAbs a => ⟨0xAE, .ldx, (.mem (.abs a))⟩
  | .bcs d => ⟨0xB0, .bcs, (.rel d)⟩
  | .ldaIzy z => ⟨0xB1, .lda, (.mem (.izy z))⟩
  | .ldyZpx z => ⟨0xB4, .ldy, (.mem (.zpx z))⟩
  | .ldaZpx z => ⟨0xB5, .lda, (.mem (.zpx z))⟩
  | .ldxZpy z => ⟨0xB6, .ldx, (.mem (.zpy z))⟩
  | .clv => ⟨0xB8, .clv, .imp⟩
  | .ldaAby a => ⟨0xB9, .lda, (.mem (.aby a))⟩
  | .tsx => ⟨0xBA, .tsx, .imp⟩
  | .ldyAbx a => ⟨0xBC, .ldy, (.mem (.abx a))⟩
  | .ldaAbx a => ⟨0xBD, .lda, (.mem (.abx a))⟩
  | .ldxAby a => ⟨0xBE, .ldx, (.mem (.aby a))⟩
  | .cpyImm imm => ⟨0xC0, .cpy, (.imm imm)⟩
  | .cmpIzx z => ⟨0xC1, .cmp, (.mem (.izx z))⟩
  | .cpyZp z => ⟨0xC4, .cpy, (.mem (.zp z))⟩
  | .cmpZp z => ⟨0xC5, .cmp, (.mem (.zp z))⟩
  | .decZp z => ⟨0xC6, .dec, (.mem (.zp z))⟩
  | .iny => ⟨0xC8, .iny, .imp⟩
  | .cmpImm imm => ⟨0xC9, .cmp, (.imm imm)⟩
  | .dex => ⟨0xCA, .dex, .imp⟩
  | .cpyAbs a => ⟨0xCC, .cpy, (.mem (.abs a))⟩
  | .cmpAbs a => ⟨0xCD, .cmp, (.mem (.abs a))⟩
  | .decAbs a => ⟨0xCE, .dec, (.mem (.abs a))⟩
  | .bne d => ⟨0xD0, .bne, (.rel d)⟩
  | .cmpIzy z => ⟨0xD1, .cmp, (.mem (.izy z))⟩
  | .cmpZpx z => ⟨0xD5, .cmp, (.mem (.zpx z))⟩
  | .decZpx z => ⟨0xD6, .dec, (.mem (.zpx z))⟩
  | .cld => ⟨0xD8, .cld, .imp⟩
  | .cmpAby a => ⟨0xD9, .cmp, (.mem (.aby a))⟩
  | .cmpAbx a => ⟨0xDD, .cmp, (.mem (.abx a))⟩
  | .decAbx a => ⟨0xDE, .dec, (.mem (.abx a))⟩
  | .cpxImm imm => ⟨0xE0, .cpx, (.imm imm)⟩
  | .sbcIzx z => ⟨0xE1, .sbc, (.mem (.izx z))⟩
  | .cpxZp z => ⟨0xE4, .cpx, (.mem (.zp z))⟩
  | .sbcZp z => ⟨0xE5, .sbc, (.mem (.zp z))⟩
  | .incZp z => ⟨0xE6, .inc, (.mem (.zp z))⟩
  | .inx => ⟨0xE8, .inx, .imp⟩
  | .sbcImm imm => ⟨0xE9, .sbc, (.imm imm)⟩
  | .nop => ⟨0xEA, .nop, .imp⟩
  | .cpxAbs a => ⟨0xEC, .cpx, (.mem (.abs a))⟩
  | .sbcAbs a => ⟨0xED, .sbc, (.mem (.abs a))⟩
  | .incAbs a => ⟨0xEE, .inc, (.mem (.abs a))⟩
  | .beq d => ⟨0xF0, .beq, (.rel d)⟩
  | .sbcIzy z => ⟨0xF1, .sbc, (.mem (.izy z))⟩
  | .sbcZpx z => ⟨0xF5, .sbc, (.mem (.zpx z))⟩
  | .incZpx z => ⟨0xF6, .inc, (.mem (.zpx z))⟩
  | .sed => ⟨0xF8, .sed, .imp⟩
  | .sbcAby a => ⟨0xF9, .sbc, (.mem (.aby a))⟩
  | .sbcAbx a => ⟨0xFD, .sbc, (.mem (.abx a))⟩
  | .incAbx a => ⟨0xFE, .inc, (.mem (.abx a))⟩

/-- The opcode byte of an instruction. -/
def Instr.opcode (i : Instr) : Byte := (describe i).opcode

/-- The mnemonic of an instruction. -/
def Instr.mnemonic (i : Instr) : Mnemonic := (describe i).mnemonic

/-- The operand of an instruction. -/
def Instr.operand (i : Instr) : Operand := (describe i).operand

/-- The two bytes of a 16-bit operand, low byte first (R122). -/
def wordBytes (a : Addr) : List Byte := [loByte a, hiByte a]

/-- The operand bytes of a memory mode (R120). -/
def MemMode.bytes : MemMode → List Byte
  | .zp z => [z]
  | .zpx z => [z]
  | .zpy z => [z]
  | .abs a => wordBytes a
  | .abx a => wordBytes a
  | .aby a => wordBytes a
  | .izx z => [z]
  | .izy z => [z]

/-- The operand bytes of an instruction (R120). -/
def Operand.bytes : Operand → List Byte
  | .imp => []
  | .acc => []
  | .imm b => [b]
  | .mem m => m.bytes
  | .ind ptr => wordBytes ptr
  | .rel d => [d]

/-- The bytes of an instruction (R120). -/
def encode (i : Instr) : List Byte := i.opcode :: i.operand.bytes

/-- The first three bytes of an instruction whose bits are `w`, bit 0 the least significant bit of
its first byte, the bits from `nbits` on zero. -/
def tableBytes (nbits w : Nat) : List Byte :=
  let v := w % 2 ^ nbits
  [BitVec.ofNat 8 v, BitVec.ofNat 8 (v / 256), BitVec.ofNat 8 (v / 65536)]

/-- The instruction the decoder reads from an opcode-table word. -/
def decodeTableWord (nbits w : Nat) : Option Instr :=
  match decode (tableBytes nbits w) with
  | .ok i _ => some i
  | .unmapped _ => none
  | .truncated => none

end Sys2Proof
end

