-- ==== Sys2Proof/Config.lean ====
section
/-! DEFINITION. The parameters of the machine (00_scope.md R10, 10_state.md R64) as plain data, and its free values. The record is
carried unchanged in `State.cfg`, so that a statement about every state holds for every cartridge,
cycle table and palette (log 8). -/

namespace Sys2Proof

/-- The two sizes a program ROM may have (R10, 92_eei_decisions.md D8). -/
inductive PrgSize where
  | k16
  | k32
  deriving DecidableEq, Repr

/-- `PRG_SIZE` in bytes (R10). -/
def PrgSize.bytes : PrgSize → Nat
  | .k16 => 16384
  | .k32 => 32768

/-- `CHR_SIZE` in bytes (R10). -/
def chrBytes : Nat := 8192

/-- A colour of the frame buffer: three 8-bit values (10_state.md R60). -/
structure Rgb where
  red : Byte
  green : Byte
  blue : Byte
  deriving DecidableEq, Repr, Inhabited

/-- The parameter `FLOAT` (20_memory.md R77, 92_eei_decisions.md D5): one byte for every floating
read, or a fresh draw of any byte per read. -/
inductive FloatPolicy where
  | constant (value : Byte)
  | draw
  deriving DecidableEq, Repr

/-- The OPEN parameters of R10. -/
structure Config where
  /-- `PRG_SIZE` (R10). -/
  prgSize : PrgSize
  /-- `PRG`, the program ROM contents (10_state.md R43). -/
  prg : Memory
  /-- `CHR`, the pattern ROM contents (10_state.md R44). -/
  chr : Memory
  /-- `FLOAT` (20_memory.md R77). -/
  float : FloatPolicy
  /-- `CYCLES`, laid out as the opcode matrix: by the high, then the low digit of the opcode byte
  (70_reset_and_hazards.md R320). -/
  cycles : Vector (Vector Nat 16) 16
  /-- `NMI_CYCLES` (70_reset_and_hazards.md R322). -/
  nmiCycles : Nat
  /-- `PALETTE[0..3]` (60_exceptions.md R257). -/
  palette : Vector Rgb 4
  deriving DecidableEq, Repr

/-- The byte the `k`-th floating read draws under `FloatPolicy.draw`: a free value, any byte
(20_memory.md R77, 93_implementation_defined.md U1; log 1). -/
opaque Config.freeByte : Nat → Byte

/-- The colour of a pixel, by its key `256 * y + x`, that no dot has produced yet: a free value
(10_state.md R63, 93_implementation_defined.md U9; log 6). -/
opaque Config.unproducedPixel : Nat → Rgb

end Sys2Proof
end

