-- ==== Sys2Proof/Machine/Defaults.lean ====
section
/-! DEFINITION. The default parameters (00_scope.md R10, 70_reset_and_hazards.md R320, R322). -/

namespace Sys2Proof.Machine

/-- The default `CYCLES` table (R320), laid out as the opcode matrix of 30_encoding.md R133; 0 where the opcode
is unmapped. -/
def defaultCycles : Vector (Vector Nat 16) 16 :=
  #v[#v[7, 6, 0, 0, 0, 3, 5, 0, 3, 2, 2, 0, 0, 4, 6, 0],
    #v[2, 5, 0, 0, 0, 4, 6, 0, 2, 4, 0, 0, 0, 4, 7, 0],
    #v[6, 6, 0, 0, 3, 3, 5, 0, 4, 2, 2, 0, 4, 4, 6, 0],
    #v[2, 5, 0, 0, 0, 4, 6, 0, 2, 4, 0, 0, 0, 4, 7, 0],
    #v[6, 6, 0, 0, 0, 3, 5, 0, 3, 2, 2, 0, 3, 4, 6, 0],
    #v[2, 5, 0, 0, 0, 4, 6, 0, 2, 4, 0, 0, 0, 4, 7, 0],
    #v[6, 6, 0, 0, 0, 3, 5, 0, 4, 2, 2, 0, 5, 4, 6, 0],
    #v[2, 5, 0, 0, 0, 4, 6, 0, 2, 4, 0, 0, 0, 4, 7, 0],
    #v[0, 6, 0, 0, 3, 3, 3, 0, 2, 0, 2, 0, 4, 4, 4, 0],
    #v[2, 6, 0, 0, 4, 4, 4, 0, 2, 5, 2, 0, 0, 5, 0, 0],
    #v[2, 6, 2, 0, 3, 3, 3, 0, 2, 2, 2, 0, 4, 4, 4, 0],
    #v[2, 5, 0, 0, 4, 4, 4, 0, 2, 4, 2, 0, 4, 4, 4, 0],
    #v[2, 6, 0, 0, 3, 3, 5, 0, 2, 2, 2, 0, 4, 4, 6, 0],
    #v[2, 5, 0, 0, 0, 4, 6, 0, 2, 4, 0, 0, 0, 4, 7, 0],
    #v[2, 6, 0, 0, 3, 3, 5, 0, 2, 2, 2, 0, 4, 4, 6, 0],
    #v[2, 5, 0, 0, 0, 4, 6, 0, 2, 4, 0, 0, 0, 4, 7, 0]]

/-- The default `NMI_CYCLES` (R322). -/
def defaultNmiCycles : Nat := 7

/-- The default `PALETTE`: four greys (R10). -/
def defaultPalette : Vector Rgb 4 := #v[⟨0, 0, 0⟩, ⟨85, 85, 85⟩, ⟨170, 170, 170⟩, ⟨255, 255, 255⟩]

/-- The default parameters with an empty 32 KiB cartridge and floating reads that draw a free value
(log 1, 2, 9). -/
def defaultConfig : Config where
  prgSize := .k32
  prg := []
  chr := []
  float := .draw
  cycles := defaultCycles
  nmiCycles := defaultNmiCycles
  palette := defaultPalette

/-- `CYCLES[op]` (R141). -/
def cyclesOf (cfg : Config) (op : Byte) : Nat :=
  (cfg.cycles[(op.extractLsb' 4 4).toNat]'(op.extractLsb' 4 4).isLt)[(op.extractLsb' 0 4).toNat]'(op.extractLsb' 0 4).isLt

/-- `PALETTE[index]` (60_exceptions.md R257). -/
def paletteOf (cfg : Config) (index : BitVec 2) : Rgb := cfg.palette[index.toNat]'index.isLt

end Sys2Proof.Machine
end

