-- ==== Sys2Proof/Machine/State.lean ====
section
/-! DEFINITION. The state of the machine (10_state.md) as plain data, the reasons a step could stop, and the state after
power-on and `reset()`. -/

namespace Sys2Proof.Machine

/-- The record of a halt: `halt_addr` and `halt_op` (10_state.md R37). -/
structure HaltRecord where
  addr : Addr
  op : Byte
  deriving DecidableEq, Repr

/-- The Processor's registers and hidden state (10_state.md R30 to R37). -/
structure Cpu where
  /-- `A` (R30). -/
  a : Byte
  /-- `X` (R30). -/
  x : Byte
  /-- `Y` (R30). -/
  y : Byte
  /-- `S`, the stack pointer (R31). -/
  s : Byte
  /-- `P`, the status word `N V 1 1 D I Z C` (R33). -/
  p : Byte
  /-- `PC` (R32). -/
  pc : Addr
  /-- The pending-cycle counter (R36). -/
  pending : Nat
  /-- The halt state: `some` iff `halted` (R37; log 11). -/
  halt : Option HaltRecord
  deriving DecidableEq, Repr

/-- The direction of the last access of a bus (10_state.md R40). -/
inductive Direction where
  | read
  | write
  deriving DecidableEq, Repr

/-- The three latches of a bus (10_state.md R40). -/
structure BusLatch (width : Nat) where
  address : BitVec width
  value : Byte
  direction : Direction
  deriving DecidableEq, Repr

/-- What a DMA session does in its next driven cycle (10_state.md R46). -/
inductive DmaPhase where
  | fetch
  | store
  deriving DecidableEq, Repr

/-- A DMA session (10_state.md R46). -/
structure DmaSession where
  sourceBase : Addr
  destination : Addr
  length : Nat
  cursor : Nat
  phase : DmaPhase
  latch : Byte
  deriving DecidableEq, Repr

/-- The Picture Unit (10_state.md R47 to R60). -/
structure Ppu where
  /-- Register 0, control (R48). -/
  ctrl : Byte
  /-- Register 1, mask (R49). -/
  mask : Byte
  /-- Register 2, status (R50). -/
  status : Byte
  /-- Register 3, OAM-address (R51). -/
  oamaddr : Byte
  /-- Register 5, scroll: the last byte written (R53). -/
  scrollLast : Byte
  /-- Register 6, address: the last byte written (R54). -/
  addrLast : Byte
  /-- Register 7, data: the last byte written (R55). -/
  dataLast : Byte
  /-- The internal VRAM address latch (R56). -/
  v : PicAddr
  /-- The temporary address latch (R56). -/
  t : PicAddr
  /-- The write toggle shared by registers 5 and 6 (R56). -/
  w : Bool
  /-- The sprite-attribute memory, 256 bytes (R57). -/
  oam : Memory
  /-- The horizontal dot counter, 0 to 340 (R58). -/
  dot : Nat
  /-- The vertical scanline counter, 0 to 261 (R58). -/
  scanline : Nat
  /-- The frame counter (R59). -/
  frame : Nat
  /-- The signal of a completed vertical blank (R59). -/
  frameReady : Bool
  /-- The frame buffer: the pixels produced so far, by key `256 * y + x` (R60; log 6). -/
  fb : List (Nat × Rgb)
  deriving DecidableEq, Repr

/-- The report of a processor write to an internal-register address that has no register
(20_memory.md R94, 60_exceptions.md R254). -/
structure Report where
  addr : Addr
  value : Byte
  deriving DecidableEq, Repr

/-- The whole machine. -/
structure State where
  /-- The parameters, never changed by a step (10_state.md R64; log 8). -/
  cfg : Config
  /-- The Processor. -/
  cpu : Cpu
  /-- The latches of the main bus (R40). -/
  mainBus : BusLatch 16
  /-- The latches of the picture bus (R40). -/
  picBus : BusLatch 14
  /-- Working RAM, 2048 bytes (R42). -/
  ram : Memory
  /-- Picture RAM, 2048 bytes (R45). -/
  vram : Memory
  /-- The DMA Controller's session, if one is active (R46). -/
  dma : Option DmaSession
  /-- The Picture Unit. -/
  ppu : Ppu
  /-- The reports put out to the host, newest first: the model's own field (log 10). -/
  reports : List Report
  /-- How many floating bytes have been drawn: the model's own field, the index of the next free
  value (log 1). -/
  floatReads : Nat
  deriving DecidableEq, Repr

/-- The machine itself never stops with a fault (60_exceptions.md R242). -/
inductive Fault where
  /-- Raised by `renderFrame` only, never by `exec` or `step`: no frame wrap within the 29781 system
  cycles of 60_exceptions.md R281, which takes a dot or scanline counter outside its range, so no
  run meets it (log 13). Safe. -/
  | frameNotReached
  deriving DecidableEq, Repr

/-- Why the model could give no meaning. No meaning refuses. -/
inductive Refusal where
  /-- Raised by an arm of `exec` whose instruction has no meaning yet; there is none. Safe. -/
  | notModelled (mnemonic : String)
  deriving DecidableEq, Repr

/-- Power-on followed by one `reset()` with the empty cartridge and the default parameters
(10_state.md R63, 70_reset_and_hazards.md R306; log 1, 2, 3, 5, 9, 10). -/
def State.reset : State where
  cfg := defaultConfig
  cpu :=
    { a := 0x00, x := 0x00, y := 0x00, s := 0xFF, p := 0x34, pc := 0x0000, pending := 0, halt := none }
  mainBus := { address := 0xFFFD, value := 0x00, direction := .read }
  picBus := { address := 0x0000, value := 0x00, direction := .read }
  ram := []
  vram := []
  dma := none
  ppu :=
    { ctrl := 0x00, mask := 0x00, status := 0x00, oamaddr := 0x00, scrollLast := 0x00,
      addrLast := 0x00, dataLast := 0x00, v := 0, t := 0, w := false, oam := [], dot := 0,
      scanline := 0, frame := 0, frameReady := false, fb := [] }
  reports := []
  floatReads := 0

end Sys2Proof.Machine
end

