-- ==== Sys2Proof/Machine/Flags.lean ====
section
/-! DEFINITION. The status word, the register writes that recompute it, and every flag computation (10_state.md R30 to R35,
41_arithmetic_logic.md R170, 42_shift_rotate.md R190 to R194). -/

namespace Sys2Proof.Machine

/-- The six flags (R33). -/
inductive Flag where
  | C
  | Z
  | I
  | D
  | V
  | N
  deriving DecidableEq, Repr

/-- The bit of `P` each flag is (R33). -/
def Flag.bit : Flag → Nat
  | .C => 0
  | .Z => 1
  | .I => 2
  | .D => 3
  | .V => 6
  | .N => 7

/-- A byte with bit `n` made `b`. -/
def putBit (n : Nat) (b : Bool) (v : Byte) : Byte :=
  if b then v ||| (1#8 <<< n) else v &&& ~~~(1#8 <<< n)

/-- A flag of a status word. -/
def flagOf (f : Flag) (p : Byte) : Bool := p.getLsbD f.bit

/-- A flag of the processor. -/
def Cpu.flag (f : Flag) (c : Cpu) : Bool := flagOf f c.p

/-- Write one flag (R34). -/
def Cpu.putFlag (f : Flag) (b : Bool) (c : Cpu) : Cpu := { c with p := putBit f.bit b c.p }

/-- `P` as every rule that pushes it sees it: bits 4 and 5 are 1 (R35; log 12). -/
def Cpu.status (c : Cpu) : Byte := c.p ||| 0x30

/-- Write `P` as a whole: `value | 0x30` (R35). -/
def Cpu.setStatus (v : Byte) (c : Cpu) : Cpu := { c with p := v ||| 0x30 }

/-- `SetNZ(v)` (00_scope.md R17). -/
def Cpu.setNZ (v : Byte) (c : Cpu) : Cpu := (c.putFlag .Z (v == 0)).putFlag .N v.msb

/-- Write `A`, recomputing `Z` and `N` (R30). -/
def Cpu.writeA (v : Byte) (c : Cpu) : Cpu := Cpu.setNZ v { c with a := v }

/-- Write `X`, recomputing `Z` and `N` (R30). -/
def Cpu.writeX (v : Byte) (c : Cpu) : Cpu := Cpu.setNZ v { c with x := v }

/-- Write `Y`, recomputing `Z` and `N` (R30). -/
def Cpu.writeY (v : Byte) (c : Cpu) : Cpu := Cpu.setNZ v { c with y := v }

/-- Write `S`: no flag changes (R31, 40_load_store_transfer.md R161). -/
def Cpu.writeS (v : Byte) (c : Cpu) : Cpu := { c with s := v }

/-- Write `PC` as a whole (R32). -/
def Cpu.setPC (a : Addr) (c : Cpu) : Cpu := { c with pc := a }

/-- The result of the adder: `(r, cout, ovf)` (R170). -/
structure Sum where
  r : Byte
  cout : Bool
  ovf : Bool
  deriving DecidableEq, Repr

/-- `Add8(a, b, cin)`, the 8-bit carry-propagating adder (R170). -/
def add8 (a b : Byte) (cin : Bool) : Sum :=
  let sum9 : BitVec 9 := a.zeroExtend 9 + b.zeroExtend 9 + (BitVec.ofBool cin).zeroExtend 9
  let r : Byte := sum9.extractLsb' 0 8
  { r := r, cout := sum9.getLsbD 8, ovf := (a.msb == b.msb) && (r.msb != a.msb) }

/-- The common end of ADC and SBC: carry and overflow from the sum, then `A` (R171, R172). -/
def Cpu.addInto (b : Byte) (c : Cpu) : Cpu :=
  let k := add8 c.a b (c.flag .C)
  Cpu.writeA k.r ((c.putFlag .C k.cout).putFlag .V k.ovf)

/-- The compare of a register with an operand: `C`, `Z`, `N` from `reg - m` (R176). -/
def Cpu.compare (reg m : Byte) (c : Cpu) : Cpu :=
  let k := add8 reg (m ^^^ 0xFF) true
  Cpu.setNZ k.r (c.putFlag .C k.cout)

/-- What a read-modify-write makes of its operand: the result, and the processor with the flags
that are written before the result is. -/
structure Modified where
  result : Byte
  cpu : Cpu
  deriving DecidableEq, Repr

/-- A shift's or rotate's result `r` and the bit `co` moved out to the carry (R190). -/
def shifted (r : Byte) (co : Bool) (c : Cpu) : Modified :=
  { result := r, cpu := c.putFlag .C co }

end Sys2Proof.Machine
end

