-- ==== Sys2Proof/Machine/Memory.lean ====
section
/-! DEFINITION. Arrays as sorted lists of (index, value) pairs: the byte memories, where an unlisted index reads as 0x00
(log 4), and the frame buffer, where an unlisted pixel is a free value (log 6). -/

namespace Sys2Proof

/-- The value listed at a key, if any. -/
def Sparse.lookup {α : Type} (k : Nat) : List (Nat × α) → Option α
  | [] => none
  | c :: m => if c.1 = k then some c.2 else Sparse.lookup k m

/-- Drop every entry at a key. -/
def Sparse.erase {α : Type} (k : Nat) : List (Nat × α) → List (Nat × α)
  | [] => []
  | c :: m => if c.1 = k then Sparse.erase k m else c :: Sparse.erase k m

/-- Put an entry before the first larger key. -/
def Sparse.insert {α : Type} (k : Nat) (v : α) : List (Nat × α) → List (Nat × α)
  | [] => [(k, v)]
  | c :: m => if k < c.1 then (k, v) :: c :: m else c :: Sparse.insert k v m

/-- List `v` at `k` in place of whatever was listed there. -/
def Sparse.put {α : Type} (k : Nat) (v : α) (m : List (Nat × α)) : List (Nat × α) :=
  Sparse.insert k v (Sparse.erase k m)

/-- The keys rise strictly. -/
def Sparse.sorted {α : Type} : List (Nat × α) → Bool
  | [] => true
  | [_] => true
  | c :: d :: m => decide (c.1 < d.1) && Sparse.sorted (d :: m)

/-- The byte at an index; an unlisted one reads as 0x00 (92_eei_decisions.md D30; log 4). -/
def Memory.read (m : Memory) (i : Nat) : Byte := (Sparse.lookup i m).getD 0

/-- Store a byte, keeping the canonical form: a zero is not listed. -/
def Memory.write (m : Memory) (i : Nat) (v : Byte) : Memory :=
  if v = 0 then Sparse.erase i m else Sparse.put i v m

/-- The canonical form of an array of `size` bytes: rising indexes below `size`, no zero listed. -/
def Memory.wf (size : Nat) (m : Memory) : Bool :=
  Sparse.sorted m && m.all fun c => decide (c.1 < size) && c.2 != 0

/-- The memory whose bytes from index `i` on are the given ones. -/
def Memory.ofBytes (i : Nat) : List Byte → Memory
  | [] => []
  | b :: bs => if b = 0 then Memory.ofBytes (i + 1) bs else (i, b) :: Memory.ofBytes (i + 1) bs

end Sys2Proof
end

