-- ==== Sys2Proof/Machine/PictureBus.lean ====
section
/-! DEFINITION. The decode rule of a bus (20_memory.md R71 to R77), and the picture bus with its two devices
(R87 to R90). -/

namespace Sys2Proof.Machine

/-- A device descriptor `{addressMask, device, isDefaultDevice}` (R71). -/
structure Attachment (width : Nat) (δ : Type) where
  addressMask : BitVec width
  device : δ
  isDefault : Bool
  deriving DecidableEq, Repr

/-- `InRange(d, a)` (R73). -/
def inRange {w : Nat} {δ : Type} (a : BitVec w) (d : Attachment w δ) : Bool :=
  ((a &&& d.addressMask) != 0) || ((a == 0) && d.isDefault)

/-- The descriptor of largest `addressMask` (R74). -/
def largestMask {w : Nat} {δ : Type} : List (Attachment w δ) → Option (Attachment w δ)
  | [] => none
  | d :: ds =>
    match largestMask ds with
    | none => some d
    | some e => if d.addressMask.toNat < e.addressMask.toNat then some e else some d

/-- The device that answers a read (R74, R75). -/
def answering {w : Nat} {δ : Type} (ds : List (Attachment w δ)) (a : BitVec w) : Option δ :=
  (largestMask (ds.filter (inRange a))).map Attachment.device

/-- The devices that receive a write, in attachment order (R76). -/
def receiving {w : Nat} {δ : Type} (ds : List (Attachment w δ)) (a : BitVec w) : List δ :=
  (ds.filter (inRange a)).map Attachment.device

/-- A byte read and the machine after the read. -/
structure Read where
  value : Byte
  state : State
  deriving DecidableEq, Repr

/-- A read that no device answers: `FLOAT`, without a side effect on the machine (R77; log 1). -/
def floating (s : State) : Read :=
  match s.cfg.float with
  | .constant b => { value := b, state := s }
  | .draw => { value := Config.freeByte s.floatReads, state := { s with floatReads := s.floatReads + 1 } }

/-- The two devices of the picture bus (R87). -/
inductive PicDevice where
  | patternRom
  | pictureRam
  deriving DecidableEq, Repr

/-- The descriptor set of the picture bus, in attachment order (R87). -/
def picDevices : List (Attachment 14 PicDevice) :=
  [ { addressMask := 0x1FFF, device := .patternRom, isDefault := true },
    { addressMask := 0x2000, device := .pictureRam, isDefault := false } ]

/-- The index a pattern ROM address selects (R82 with `DATA = CHR`). -/
def chrIndex (a : PicAddr) : Nat := a.toNat &&& (chrBytes - 1)

/-- The index a picture RAM address selects (R89). -/
def vramIndex (a : PicAddr) : Nat := a.toNat &&& 0x07FF

/-- `read(a)` of a picture-bus device (R82, R89): no side effect. -/
def PicDevice.read (d : PicDevice) (a : PicAddr) (s : State) : Byte :=
  match d with
  | .patternRom => Memory.read s.cfg.chr (chrIndex a)
  | .pictureRam => Memory.read s.vram (vramIndex a)

/-- `write(a, v)` of a picture-bus device (R82, R89): the ROM ignores it. -/
def PicDevice.write (a : PicAddr) (v : Byte) (s : State) (d : PicDevice) : State :=
  match d with
  | .patternRom => s
  | .pictureRam => { s with vram := Memory.write s.vram (vramIndex a) v }

/-- `PicRead(a)` (R75, R88). -/
def picRead (a : PicAddr) (s : State) : Read :=
  let r : Read :=
    match answering picDevices a with
    | none => floating s
    | some d => { value := d.read a s, state := s }
  { r with state := { r.state with picBus := { address := a, value := r.value, direction := .read } } }

/-- `PicWrite(a, v)` (R76, R88). -/
def picWrite (a : PicAddr) (v : Byte) (s : State) : State :=
  (receiving picDevices a).foldl (PicDevice.write a v)
    { s with picBus := { address := a, value := v, direction := .write } }

end Sys2Proof.Machine
end

