-- ==== Sys2Proof/Machine/Registers.lean ====
section
/-! DEFINITION. The eight registers of the Picture Unit as the main bus sees them (10_state.md R47 to R56,
60_exceptions.md R259 to R269). -/

namespace Sys2Proof.Machine

/-- The registers, numbered 0 to 7 in this order (R47). -/
inductive PpuReg where
  | control
  | mask
  | status
  | oamAddress
  | oamData
  | scroll
  | address
  | data
  deriving DecidableEq, Repr

/-- The register at a window address: `a & 7` (20_memory.md R83). -/
def PpuReg.ofAddr (a : Addr) : PpuReg :=
  match a.toNat &&& 7 with
  | 0 => .control
  | 1 => .mask
  | 2 => .status
  | 3 => .oamAddress
  | 4 => .oamData
  | 5 => .scroll
  | 6 => .address
  | _ => .data

/-- Bit 7 of control: the frame interrupt is enabled (R48). -/
def Ppu.nmiEnable (p : Ppu) : Bool := p.ctrl.getLsbD 7

/-- Bit 4 of control: the pattern base is 0x1000 (R48). -/
def Ppu.bgBase (p : Ppu) : Bool := p.ctrl.getLsbD 4

/-- Bit 2 of control: data accesses advance `v` by 32 (R48). -/
def Ppu.inc32 (p : Ppu) : Bool := p.ctrl.getLsbD 2

/-- Bit 3 of mask: rendering is enabled (R49). -/
def Ppu.bgEnable (p : Ppu) : Bool := p.mask.getLsbD 3

/-- Bit 7 of status: the vertical-blank status bit (R50). -/
def Ppu.vblank (p : Ppu) : Bool := p.status.getLsbD 7

/-- Write the vertical-blank status bit (R50). -/
def Ppu.putVblank (b : Bool) (p : Ppu) : Ppu := { p with status := putBit 7 b p.status }

/-- Change the Picture Unit alone. -/
def State.mapPpu (f : Ppu → Ppu) (s : State) : State := { s with ppu := f s.ppu }

/-- The advance of `v` after a data-register access, modulo 2^14 (R56, R261, R269). -/
def Ppu.advanceV (p : Ppu) : Ppu := { p with v := p.v + (if p.inc32 then 32#14 else 1#14) }

/-- A byte of `OAM` (R57). -/
def Ppu.oamRead (p : Ppu) (i : Byte) : Byte := Memory.read p.oam i.toNat

/-- Read of a register (R259 to R262). -/
def PpuReg.read (r : PpuReg) (s : State) : Read :=
  match r with
  | .control => { value := s.ppu.ctrl, state := s.mapPpu (Ppu.putVblank false) }
  | .mask => { value := s.ppu.mask, state := s }
  | .status => { value := s.ppu.status, state := s.mapPpu fun p => { p with w := false } }
  | .oamAddress => { value := s.ppu.oamaddr, state := s }
  | .oamData => { value := s.ppu.oamRead s.ppu.oamaddr, state := s }
  | .scroll => { value := s.ppu.scrollLast, state := s }
  | .address => { value := s.ppu.addrLast, state := s }
  | .data =>
    let r := picRead s.ppu.v s
    { r with state := r.state.mapPpu Ppu.advanceV }

/-- Write of register 4 (R266). -/
def Ppu.writeOamData (b : Byte) (p : Ppu) : Ppu :=
  { p with oam := Memory.write p.oam p.oamaddr.toNat b, oamaddr := p.oamaddr + 1 }

/-- Write of register 5 (R267). -/
def Ppu.writeScroll (b : Byte) (p : Ppu) : Ppu := { p with scrollLast := b, w := !p.w }

/-- Write of register 6: the two halves of the latch, high six bits first (R268). -/
def Ppu.writeAddress (b : Byte) (p : Ppu) : Ppu :=
  if p.w then
    let t : PicAddr := p.t.extractLsb' 8 6 ++ b
    { p with addrLast := b, t := t, v := t, w := false }
  else
    { p with addrLast := b, t := b.extractLsb' 0 6 ++ p.t.extractLsb' 0 8, w := true }

/-- Write of a register (R263 to R269). -/
def PpuReg.write (r : PpuReg) (b : Byte) (s : State) : State :=
  match r with
  | .control => s.mapPpu fun p => { p with ctrl := b }
  | .mask => s.mapPpu fun p => { p with mask := b }
  | .status => s
  | .oamAddress => s.mapPpu fun p => { p with oamaddr := b }
  | .oamData => s.mapPpu (Ppu.writeOamData b)
  | .scroll => s.mapPpu (Ppu.writeScroll b)
  | .address => s.mapPpu (Ppu.writeAddress b)
  | .data => (picWrite s.ppu.v b (s.mapPpu fun p => { p with dataLast := b })).mapPpu Ppu.advanceV

end Sys2Proof.Machine
end

