-- ==== Sys2Proof/Machine/MainBus.lean ====
section
/-! DEFINITION. The main bus and its three devices (20_memory.md R75 to R86). -/

namespace Sys2Proof.Machine

/-- The three devices of the main bus (R79). -/
inductive MainDevice where
  | workingRam
  | registerWindow
  | programRom
  deriving DecidableEq, Repr

/-- The descriptor set of the main bus, in attachment order (R79). -/
def mainDevices : List (Attachment 16 MainDevice) :=
  [ { addressMask := 0x1FFF, device := .workingRam, isDefault := true },
    { addressMask := 0x2000, device := .registerWindow, isDefault := false },
    { addressMask := 0x8000, device := .programRom, isDefault := false } ]

/-- The index a Working RAM address selects (R81). -/
def ramIndex (a : Addr) : Nat := a.toNat &&& 0x07FF

/-- The index a program ROM address selects (R82). -/
def prgIndex (cfg : Config) (a : Addr) : Nat := a.toNat &&& (cfg.prgSize.bytes - 1)

/-- `read(a)` of a main-bus device, with its side effects (R81 to R83). -/
def MainDevice.read (d : MainDevice) (a : Addr) (s : State) : Read :=
  match d with
  | .workingRam => { value := Memory.read s.ram (ramIndex a), state := s }
  | .registerWindow => (PpuReg.ofAddr a).read s
  | .programRom => { value := Memory.read s.cfg.prg (prgIndex s.cfg a), state := s }

/-- `write(a, v)` of a main-bus device (R81 to R83): the ROM ignores it. -/
def MainDevice.write (a : Addr) (v : Byte) (s : State) (d : MainDevice) : State :=
  match d with
  | .workingRam => { s with ram := Memory.write s.ram (ramIndex a) v }
  | .registerWindow => (PpuReg.ofAddr a).write v s
  | .programRom => s

/-- `BusRead(a)` on the main bus (R75). -/
def busRead (a : Addr) (s : State) : Read :=
  let r : Read :=
    match answering mainDevices a with
    | none => floating s
    | some d => d.read a s
  { r with state := { r.state with mainBus := { address := a, value := r.value, direction := .read } } }

/-- `BusWrite(a, v)` on the main bus (R76): every in-range device receives the write. -/
def busWrite (a : Addr) (v : Byte) (s : State) : State :=
  (receiving mainDevices a).foldl (MainDevice.write a v)
    { s with mainBus := { address := a, value := v, direction := .write } }

end Sys2Proof.Machine
end

