-- ==== Sys2Proof/Machine/Ops.lean ====
section
/-! DEFINITION. The named operations of the processor: its bus accesses, the stack, entering and leaving a handler, the halt
(00_scope.md R14 to R18, 20_memory.md R92 to R96, 60_exceptions.md R240 to R251). -/

namespace Sys2Proof.Machine

/-- Change the processor's registers alone. -/
def State.mapCpu (f : Cpu → Cpu) (s : State) : State := { s with cpu := f s.cpu }

/-- `halted` (10_state.md R37). -/
def State.halted (s : State) : Bool := s.cpu.halt.isSome

/-- `CpuRead(a) = BusRead(a)` (R14). -/
def cpuRead (a : Addr) (s : State) : Read := busRead a s

/-- `IsInternal(a)`: 0x4000 to 0x401F (R92). -/
def isInternal (a : Addr) : Bool := (a &&& 0xFFE0) == 0x4000

/-- `DmaBegin(b)`: arm the sprite-memory transfer from page `b` (60_exceptions.md R271). -/
def dmaBegin (b : Byte) (s : State) : State :=
  { s with
    dma := some
      { sourceBase := wordOf 0x00 b, destination := 0x2004, length := 256, cursor := 0,
        phase := .fetch, latch := 0x00 } }

/-- The report of an unimplemented internal register: non-fatal, no other change (R94; log 10). -/
def reportInternal (a : Addr) (v : Byte) (s : State) : State :=
  { s with reports := { addr := a, value := v } :: s.reports }

/-- The side-effect handler of the internal-register addresses (R93). -/
def internalWrite (a : Addr) (v : Byte) (s : State) : State :=
  if a = 0x4014 then dmaBegin v s else reportInternal a v s

/-- `CpuWrite(a, v)`: the bus write first, then the interception (R93). -/
def cpuWrite (a : Addr) (v : Byte) (s : State) : State :=
  let s1 := busWrite a v s
  if isInternal a then internalWrite a v s1 else s1

/-- A 16-bit word read and the machine after the reads. -/
structure WordRead where
  value : Addr
  state : State
  deriving DecidableEq, Repr

/-- `Read16(a)`: the low byte first (R15). -/
def read16 (a : Addr) (s : State) : WordRead :=
  let lo := cpuRead a s
  let hi := cpuRead (a + 1) lo.state
  { value := wordOf lo.value hi.value, state := hi.state }

/-- `Push(v)`: store, then decrement `S` (R16). -/
def push (v : Byte) (s : State) : State :=
  (cpuWrite (stackAddr s.cpu.s) v s).mapCpu fun c => c.writeS (c.s - 1)

/-- `Pop()`: increment `S`, then load (R16). -/
def pop (s : State) : Read :=
  let s1 := s.mapCpu fun c => c.writeS (c.s + 1)
  cpuRead (stackAddr s1.cpu.s) s1

/-- Push a 16-bit word, high byte first (20_memory.md R97). -/
def pushWord (a : Addr) (s : State) : State := push (loByte a) (push (hiByte a) s)

/-- Pop a 16-bit word, low byte first (20_memory.md R97). -/
def popWord (s : State) : WordRead :=
  let lo := pop s
  let hi := pop lo.state
  { value := wordOf lo.value hi.value, state := hi.state }

/-- Entering a handler, shared by `Nmi()` and BRK (R249): save the return address, high byte first,
then the status word; set `I` where the entry does; load `PC` from the vector. -/
def enterHandler (ret : Addr) (setI : Bool) (vector : Addr) (s : State) : State :=
  let s1 := pushWord ret s
  let s2 := push s1.cpu.status s1
  let s3 := if setI then s2.mapCpu (Cpu.putFlag .I true) else s2
  let target := read16 vector s3
  target.state.mapCpu (Cpu.setPC target.value)

/-- Returning from a handler: the status word, then the address, no 1 added
(44_stack_flags_system.md R233). -/
def leaveHandler (s : State) : State :=
  let p := pop s
  let ret := popWord (p.state.mapCpu (Cpu.setStatus p.value))
  ret.state.mapCpu (Cpu.setPC ret.value)

/-- The vector of `Nmi()` (20_memory.md R96). -/
def nmiVector : Addr := 0xFFFA

/-- The vector of `reset()` (20_memory.md R96). -/
def resetVector : Addr := 0xFFFC

/-- The interrupt-request vector, used by BRK only (20_memory.md R96). -/
def brkVector : Addr := 0xFFFE

/-- `Nmi()`, the non-maskable interrupt entry (R244): ignored while halted (R245). -/
def nmi (s : State) : State :=
  if s.halted then s
  else
    (enterHandler s.cpu.pc false nmiVector s).mapCpu fun c =>
      { c with pending := c.pending + s.cfg.nmiCycles }

/-- `raise UnmappedOpcode(addr, op)`: the processor halts (R240). -/
def raiseUnmapped (addr : Addr) (op : Byte) (s : State) : State :=
  s.mapCpu fun c => { c with halt := some { addr := addr, op := op } }

end Sys2Proof.Machine
end

