-- ==== Sys2Proof/Machine/Operands.lean ====
section
/-! DEFINITION. The addressing modes (30_encoding.md R123 to R132) and the access classes with the latency rule
(R134, R141). An instruction's operand bytes have been fetched when its meaning runs, and `PC` is the
address of the next instruction (00_scope.md R19; log 14). -/

namespace Sys2Proof.Machine

/-- The outcome of an instruction or a step. -/
abbrev StepResult := Host.Outcome State Fault Refusal

/-- What a mode produces: the effective address, whether indexing left the page, and the machine
after the mode's own accesses. -/
structure Located where
  ea : Addr
  crossed : Bool
  state : State
  deriving DecidableEq, Repr

/-- A pointer in page zero: both bytes come from page zero (R129, R130). -/
def zeroPagePointer (z : Byte) (s : State) : WordRead :=
  let lo := cpuRead (zext16 z) s
  let hi := cpuRead (zext16 (z + 1)) lo.state
  { value := wordOf lo.value hi.value, state := hi.state }

/-- A base address indexed by a register, modulo 2^16 (R128, R130). -/
def indexed (base : Addr) (index : Byte) (s : State) : Located :=
  let ea := base + zext16 index
  { ea := ea, crossed := pageDiffers ea base, state := s }

/-- The effective address of a memory mode (R125 to R130). -/
def locate (m : MemMode) (s : State) : Located :=
  match m with
  | .zp z => { ea := zext16 z, crossed := false, state := s }
  | .zpx z => { ea := zext16 (z + s.cpu.x), crossed := false, state := s }
  | .zpy z => { ea := zext16 (z + s.cpu.y), crossed := false, state := s }
  | .abs a => { ea := a, crossed := false, state := s }
  | .abx a => indexed a s.cpu.x s
  | .aby a => indexed a s.cpu.y s
  | .izx z =>
    let p := zeroPagePointer (z + s.cpu.x) s
    { ea := p.value, crossed := false, state := p.state }
  | .izy z =>
    let p := zeroPagePointer z s
    indexed p.value p.state.cpu.y p.state

/-- Mode IND: the pointer's second byte comes from the same page as its first (R131). -/
def indirect (ptr : Addr) (s : State) : WordRead :=
  let lo := cpuRead ptr s
  let hi := cpuRead (wordOf (loByte ptr + 1) (hiByte ptr)) lo.state
  { value := wordOf lo.value hi.value, state := hi.state }

/-- The end of every instruction: `pending <- n - 1` with `n = CYCLES[op] + penalty` (R140, R141). -/
def finish (op : Byte) (penalty : Nat) (s : State) : StepResult :=
  .next (s.mapCpu fun c => { c with pending := cyclesOf s.cfg op + penalty - 1 })

/-- An instruction without a memory operand that changes registers only. -/
def implied (op : Byte) (f : Cpu → Cpu) (s : State) : StepResult := finish op 0 (s.mapCpu f)

/-- The read class in mode IMM: the operand is the byte already read (R124, R134). -/
def readImm (op : Byte) (b : Byte) (f : Byte → Cpu → Cpu) (s : State) : StepResult :=
  finish op 0 (s.mapCpu (f b))

/-- The read class in a memory mode, with the page-cross penalty (R134). -/
def readMem (op : Byte) (m : MemMode) (f : Byte → Cpu → Cpu) (s : State) : StepResult :=
  let l := locate m s
  let r := cpuRead l.ea l.state
  finish op l.crossed.toNat (r.state.mapCpu (f r.value))

/-- The write class: no read of `ea`, no penalty (R134). -/
def writeMem (op : Byte) (m : MemMode) (reg : Cpu → Byte) (s : State) : StepResult :=
  let l := locate m s
  finish op 0 (cpuWrite l.ea (reg l.state.cpu) l.state)

/-- The read-modify-write class: one read, one write, no penalty; `Z` and `N` from the result
(R134, 41_arithmetic_logic.md R180, 42_shift_rotate.md R190). -/
def modifyMem (op : Byte) (m : MemMode) (f : Byte → Cpu → Modified) (s : State) : StepResult :=
  let l := locate m s
  let r := cpuRead l.ea l.state
  let k := f r.value r.state.cpu
  let s1 := cpuWrite l.ea k.result (r.state.mapCpu fun _ => k.cpu)
  finish op 0 (s1.mapCpu (Cpu.setNZ k.result))

/-- The accumulator form of a shift or rotate (R123, 42_shift_rotate.md R190). -/
def modifyAcc (op : Byte) (f : Byte → Cpu → Modified) (s : State) : StepResult :=
  let k := f s.cpu.a s.cpu
  finish op 0 (s.mapCpu fun _ => Cpu.writeA k.result k.cpu)

end Sys2Proof.Machine
end

