-- ==== Sys2Proof/Machine/Arith.lean ====
section
/-! DEFINITION. Arithmetic, logic, compare, bit test, increment, decrement (41_arithmetic_logic.md R170 to R186). Each meaning runs with `PC` at the next instruction. -/

namespace Sys2Proof.Machine

/-- ADC (R171): the decimal flag is not consulted. -/
def adc (m : Byte) (c : Cpu) : Cpu := c.addInto m

/-- SBC (R172): the sum with the complemented operand. -/
def sbc (m : Byte) (c : Cpu) : Cpu := c.addInto (m ^^^ 0xFF)

/-- AND (R173). -/
def andA (m : Byte) (c : Cpu) : Cpu := c.writeA (c.a &&& m)

/-- ORA (R174). -/
def oraA (m : Byte) (c : Cpu) : Cpu := c.writeA (c.a ||| m)

/-- EOR (R175). -/
def eorA (m : Byte) (c : Cpu) : Cpu := c.writeA (c.a ^^^ m)

/-- CMP (R176). -/
def cmpA (m : Byte) (c : Cpu) : Cpu := c.compare c.a m

/-- CPX (R177). -/
def cmpX (m : Byte) (c : Cpu) : Cpu := c.compare c.x m

/-- CPY (R178). -/
def cmpY (m : Byte) (c : Cpu) : Cpu := c.compare c.y m

/-- BIT (R179): `Z` from `A & M`, `N` and `V` from the operand's bits 7 and 6. -/
def bitTest (m : Byte) (c : Cpu) : Cpu :=
  ((c.putFlag .Z ((c.a &&& m) == 0)).putFlag .N (m.getLsbD 7)).putFlag .V (m.getLsbD 6)

/-- INC (R180): `r = M + 1`. -/
def inc (m : Byte) (c : Cpu) : Modified := { result := m + 1, cpu := c }

/-- DEC (R181): `r = M - 1`. -/
def dec (m : Byte) (c : Cpu) : Modified := { result := m - 1, cpu := c }

/-- ADC IZX (R171). -/
def execAdcIzx (z : Byte) (s : State) : StepResult := readMem 0x61 (.izx z) adc s

/-- ADC ZP (R171). -/
def execAdcZp (z : Byte) (s : State) : StepResult := readMem 0x65 (.zp z) adc s

/-- ADC IMM (R171). -/
def execAdcImm (imm : Byte) (s : State) : StepResult := readImm 0x69 imm adc s

/-- ADC ABS (R171). -/
def execAdcAbs (a : Addr) (s : State) : StepResult := readMem 0x6D (.abs a) adc s

/-- ADC IZY (R171). -/
def execAdcIzy (z : Byte) (s : State) : StepResult := readMem 0x71 (.izy z) adc s

/-- ADC ZPX (R171). -/
def execAdcZpx (z : Byte) (s : State) : StepResult := readMem 0x75 (.zpx z) adc s

/-- ADC ABY (R171). -/
def execAdcAby (a : Addr) (s : State) : StepResult := readMem 0x79 (.aby a) adc s

/-- ADC ABX (R171). -/
def execAdcAbx (a : Addr) (s : State) : StepResult := readMem 0x7D (.abx a) adc s

/-- SBC IZX (R172). -/
def execSbcIzx (z : Byte) (s : State) : StepResult := readMem 0xE1 (.izx z) sbc s

/-- SBC ZP (R172). -/
def execSbcZp (z : Byte) (s : State) : StepResult := readMem 0xE5 (.zp z) sbc s

/-- SBC IMM (R172). -/
def execSbcImm (imm : Byte) (s : State) : StepResult := readImm 0xE9 imm sbc s

/-- SBC ABS (R172). -/
def execSbcAbs (a : Addr) (s : State) : StepResult := readMem 0xED (.abs a) sbc s

/-- SBC IZY (R172). -/
def execSbcIzy (z : Byte) (s : State) : StepResult := readMem 0xF1 (.izy z) sbc s

/-- SBC ZPX (R172). -/
def execSbcZpx (z : Byte) (s : State) : StepResult := readMem 0xF5 (.zpx z) sbc s

/-- SBC ABY (R172). -/
def execSbcAby (a : Addr) (s : State) : StepResult := readMem 0xF9 (.aby a) sbc s

/-- SBC ABX (R172). -/
def execSbcAbx (a : Addr) (s : State) : StepResult := readMem 0xFD (.abx a) sbc s

/-- AND IZX (R173). -/
def execAndIzx (z : Byte) (s : State) : StepResult := readMem 0x21 (.izx z) andA s

/-- AND ZP (R173). -/
def execAndZp (z : Byte) (s : State) : StepResult := readMem 0x25 (.zp z) andA s

/-- AND IMM (R173). -/
def execAndImm (imm : Byte) (s : State) : StepResult := readImm 0x29 imm andA s

/-- AND ABS (R173). -/
def execAndAbs (a : Addr) (s : State) : StepResult := readMem 0x2D (.abs a) andA s

/-- AND IZY (R173). -/
def execAndIzy (z : Byte) (s : State) : StepResult := readMem 0x31 (.izy z) andA s

/-- AND ZPX (R173). -/
def execAndZpx (z : Byte) (s : State) : StepResult := readMem 0x35 (.zpx z) andA s

/-- AND ABY (R173). -/
def execAndAby (a : Addr) (s : State) : StepResult := readMem 0x39 (.aby a) andA s

/-- AND ABX (R173). -/
def execAndAbx (a : Addr) (s : State) : StepResult := readMem 0x3D (.abx a) andA s

/-- ORA IZX (R174). -/
def execOraIzx (z : Byte) (s : State) : StepResult := readMem 0x01 (.izx z) oraA s

/-- ORA ZP (R174). -/
def execOraZp (z : Byte) (s : State) : StepResult := readMem 0x05 (.zp z) oraA s

/-- ORA IMM (R174). -/
def execOraImm (imm : Byte) (s : State) : StepResult := readImm 0x09 imm oraA s

/-- ORA ABS (R174). -/
def execOraAbs (a : Addr) (s : State) : StepResult := readMem 0x0D (.abs a) oraA s

/-- ORA IZY (R174). -/
def execOraIzy (z : Byte) (s : State) : StepResult := readMem 0x11 (.izy z) oraA s

/-- ORA ZPX (R174). -/
def execOraZpx (z : Byte) (s : State) : StepResult := readMem 0x15 (.zpx z) oraA s

/-- ORA ABY (R174). -/
def execOraAby (a : Addr) (s : State) : StepResult := readMem 0x19 (.aby a) oraA s

/-- ORA ABX (R174). -/
def execOraAbx (a : Addr) (s : State) : StepResult := readMem 0x1D (.abx a) oraA s

/-- EOR IZX (R175). -/
def execEorIzx (z : Byte) (s : State) : StepResult := readMem 0x41 (.izx z) eorA s

/-- EOR ZP (R175). -/
def execEorZp (z : Byte) (s : State) : StepResult := readMem 0x45 (.zp z) eorA s

/-- EOR IMM (R175). -/
def execEorImm (imm : Byte) (s : State) : StepResult := readImm 0x49 imm eorA s

/-- EOR ABS (R175). -/
def execEorAbs (a : Addr) (s : State) : StepResult := readMem 0x4D (.abs a) eorA s

/-- EOR IZY (R175). -/
def execEorIzy (z : Byte) (s : State) : StepResult := readMem 0x51 (.izy z) eorA s

/-- EOR ZPX (R175). -/
def execEorZpx (z : Byte) (s : State) : StepResult := readMem 0x55 (.zpx z) eorA s

/-- EOR ABY (R175). -/
def execEorAby (a : Addr) (s : State) : StepResult := readMem 0x59 (.aby a) eorA s

/-- EOR ABX (R175). -/
def execEorAbx (a : Addr) (s : State) : StepResult := readMem 0x5D (.abx a) eorA s

/-- CMP IZX (R176). -/
def execCmpIzx (z : Byte) (s : State) : StepResult := readMem 0xC1 (.izx z) cmpA s

/-- CMP ZP (R176). -/
def execCmpZp (z : Byte) (s : State) : StepResult := readMem 0xC5 (.zp z) cmpA s

/-- CMP IMM (R176). -/
def execCmpImm (imm : Byte) (s : State) : StepResult := readImm 0xC9 imm cmpA s

/-- CMP ABS (R176). -/
def execCmpAbs (a : Addr) (s : State) : StepResult := readMem 0xCD (.abs a) cmpA s

/-- CMP IZY (R176). -/
def execCmpIzy (z : Byte) (s : State) : StepResult := readMem 0xD1 (.izy z) cmpA s

/-- CMP ZPX (R176). -/
def execCmpZpx (z : Byte) (s : State) : StepResult := readMem 0xD5 (.zpx z) cmpA s

/-- CMP ABY (R176). -/
def execCmpAby (a : Addr) (s : State) : StepResult := readMem 0xD9 (.aby a) cmpA s

/-- CMP ABX (R176). -/
def execCmpAbx (a : Addr) (s : State) : StepResult := readMem 0xDD (.abx a) cmpA s

/-- CPX IMM (R177). -/
def execCpxImm (imm : Byte) (s : State) : StepResult := readImm 0xE0 imm cmpX s

/-- CPX ZP (R177). -/
def execCpxZp (z : Byte) (s : State) : StepResult := readMem 0xE4 (.zp z) cmpX s

/-- CPX ABS (R177). -/
def execCpxAbs (a : Addr) (s : State) : StepResult := readMem 0xEC (.abs a) cmpX s

/-- CPY IMM (R178). -/
def execCpyImm (imm : Byte) (s : State) : StepResult := readImm 0xC0 imm cmpY s

/-- CPY ZP (R178). -/
def execCpyZp (z : Byte) (s : State) : StepResult := readMem 0xC4 (.zp z) cmpY s

/-- CPY ABS (R178). -/
def execCpyAbs (a : Addr) (s : State) : StepResult := readMem 0xCC (.abs a) cmpY s

/-- BIT ZP (R179). -/
def execBitZp (z : Byte) (s : State) : StepResult := readMem 0x24 (.zp z) bitTest s

/-- BIT ABS (R179). -/
def execBitAbs (a : Addr) (s : State) : StepResult := readMem 0x2C (.abs a) bitTest s

/-- INC ZP (R180). -/
def execIncZp (z : Byte) (s : State) : StepResult := modifyMem 0xE6 (.zp z) inc s

/-- INC ABS (R180). -/
def execIncAbs (a : Addr) (s : State) : StepResult := modifyMem 0xEE (.abs a) inc s

/-- INC ZPX (R180). -/
def execIncZpx (z : Byte) (s : State) : StepResult := modifyMem 0xF6 (.zpx z) inc s

/-- INC ABX (R180). -/
def execIncAbx (a : Addr) (s : State) : StepResult := modifyMem 0xFE (.abx a) inc s

/-- DEC ZP (R181). -/
def execDecZp (z : Byte) (s : State) : StepResult := modifyMem 0xC6 (.zp z) dec s

/-- DEC ABS (R181). -/
def execDecAbs (a : Addr) (s : State) : StepResult := modifyMem 0xCE (.abs a) dec s

/-- DEC ZPX (R181). -/
def execDecZpx (z : Byte) (s : State) : StepResult := modifyMem 0xD6 (.zpx z) dec s

/-- DEC ABX (R181). -/
def execDecAbx (a : Addr) (s : State) : StepResult := modifyMem 0xDE (.abx a) dec s

/-- INX IMP (R182). -/
def execInx (s : State) : StepResult := implied 0xE8 (fun c => c.writeX (c.x + 1)) s

/-- INY IMP (R183). -/
def execIny (s : State) : StepResult := implied 0xC8 (fun c => c.writeY (c.y + 1)) s

/-- DEX IMP (R184). -/
def execDex (s : State) : StepResult := implied 0xCA (fun c => c.writeX (c.x - 1)) s

/-- DEY IMP (R185). -/
def execDey (s : State) : StepResult := implied 0x88 (fun c => c.writeY (c.y - 1)) s

end Sys2Proof.Machine
end

