-- ==== Sys2Proof/Machine/Control.lean ====
section
/-! DEFINITION. Jumps, subroutine linkage and branches (43_control_transfer.md R200 to R212). Each meaning runs with `PC` at the next instruction. -/

namespace Sys2Proof.Machine

/-- The common form of the branches (R204): `PC` is the address of the next instruction. -/
def branch (op : Byte) (taken : Bool) (d : Byte) (s : State) : StepResult :=
  let target := s.cpu.pc + sext16 d
  if taken then
    finish op (1 + (pageDiffers target s.cpu.pc).toNat) (s.mapCpu (Cpu.setPC target))
  else finish op 0 s

/-- JMP ABS (R200). -/
def execJmpAbs (a : Addr) (s : State) : StepResult := finish 0x4C 0 (s.mapCpu (Cpu.setPC a))

/-- JMP IND (R200). -/
def execJmpInd (ptr : Addr) (s : State) : StepResult :=
  let target := indirect ptr s
  finish 0x6C 0 (target.state.mapCpu (Cpu.setPC target.value))

/-- JSR ABS (R201). -/
def execJsr (a : Addr) (s : State) : StepResult :=
  finish 0x20 0 ((pushWord (s.cpu.pc - 1) s).mapCpu (Cpu.setPC a))

/-- RTS IMP (R202). -/
def execRts (s : State) : StepResult :=
  let ret := popWord s
  finish 0x60 0 (ret.state.mapCpu (Cpu.setPC (ret.value + 1)))

/-- BCC REL (R205). -/
def execBcc (d : Byte) (s : State) : StepResult := branch 0x90 (!s.cpu.flag .C) d s

/-- BCS REL (R206). -/
def execBcs (d : Byte) (s : State) : StepResult := branch 0xB0 (s.cpu.flag .C) d s

/-- BEQ REL (R207). -/
def execBeq (d : Byte) (s : State) : StepResult := branch 0xF0 (s.cpu.flag .Z) d s

/-- BNE REL (R208). -/
def execBne (d : Byte) (s : State) : StepResult := branch 0xD0 (!s.cpu.flag .Z) d s

/-- BMI REL (R209). -/
def execBmi (d : Byte) (s : State) : StepResult := branch 0x30 (s.cpu.flag .N) d s

/-- BPL REL (R210). -/
def execBpl (d : Byte) (s : State) : StepResult := branch 0x10 (!s.cpu.flag .N) d s

/-- BVC REL (R211). -/
def execBvc (d : Byte) (s : State) : StepResult := branch 0x50 (!s.cpu.flag .V) d s

/-- BVS REL (R212). -/
def execBvs (d : Byte) (s : State) : StepResult := branch 0x70 (s.cpu.flag .V) d s

end Sys2Proof.Machine
end

