-- ==== Sys2Proof/Machine/LoadStore.lean ====
section
/-! DEFINITION. Loads, stores and register transfers (40_load_store_transfer.md R150 to R161). Each meaning runs with `PC` at the next instruction. -/

namespace Sys2Proof.Machine

/-- LDA (R150): `A <- M; SetNZ(M)`. -/
def lda (m : Byte) (c : Cpu) : Cpu := c.writeA m

/-- LDX (R151): `X <- M; SetNZ(M)`. -/
def ldx (m : Byte) (c : Cpu) : Cpu := c.writeX m

/-- LDY (R152): `Y <- M; SetNZ(M)`. -/
def ldy (m : Byte) (c : Cpu) : Cpu := c.writeY m

/-- LDA IZX (R150). -/
def execLdaIzx (z : Byte) (s : State) : StepResult := readMem 0xA1 (.izx z) lda s

/-- LDA ZP (R150). -/
def execLdaZp (z : Byte) (s : State) : StepResult := readMem 0xA5 (.zp z) lda s

/-- LDA IMM (R150). -/
def execLdaImm (imm : Byte) (s : State) : StepResult := readImm 0xA9 imm lda s

/-- LDA ABS (R150). -/
def execLdaAbs (a : Addr) (s : State) : StepResult := readMem 0xAD (.abs a) lda s

/-- LDA IZY (R150). -/
def execLdaIzy (z : Byte) (s : State) : StepResult := readMem 0xB1 (.izy z) lda s

/-- LDA ZPX (R150). -/
def execLdaZpx (z : Byte) (s : State) : StepResult := readMem 0xB5 (.zpx z) lda s

/-- LDA ABY (R150). -/
def execLdaAby (a : Addr) (s : State) : StepResult := readMem 0xB9 (.aby a) lda s

/-- LDA ABX (R150). -/
def execLdaAbx (a : Addr) (s : State) : StepResult := readMem 0xBD (.abx a) lda s

/-- LDX IMM (R151). -/
def execLdxImm (imm : Byte) (s : State) : StepResult := readImm 0xA2 imm ldx s

/-- LDX ZP (R151). -/
def execLdxZp (z : Byte) (s : State) : StepResult := readMem 0xA6 (.zp z) ldx s

/-- LDX ABS (R151). -/
def execLdxAbs (a : Addr) (s : State) : StepResult := readMem 0xAE (.abs a) ldx s

/-- LDX ZPY (R151). -/
def execLdxZpy (z : Byte) (s : State) : StepResult := readMem 0xB6 (.zpy z) ldx s

/-- LDX ABY (R151). -/
def execLdxAby (a : Addr) (s : State) : StepResult := readMem 0xBE (.aby a) ldx s

/-- LDY IMM (R152). -/
def execLdyImm (imm : Byte) (s : State) : StepResult := readImm 0xA0 imm ldy s

/-- LDY ZP (R152). -/
def execLdyZp (z : Byte) (s : State) : StepResult := readMem 0xA4 (.zp z) ldy s

/-- LDY ABS (R152). -/
def execLdyAbs (a : Addr) (s : State) : StepResult := readMem 0xAC (.abs a) ldy s

/-- LDY ZPX (R152). -/
def execLdyZpx (z : Byte) (s : State) : StepResult := readMem 0xB4 (.zpx z) ldy s

/-- LDY ABX (R152). -/
def execLdyAbx (a : Addr) (s : State) : StepResult := readMem 0xBC (.abx a) ldy s

/-- STA IZX (R153). -/
def execStaIzx (z : Byte) (s : State) : StepResult := writeMem 0x81 (.izx z) Cpu.a s

/-- STA ZP (R153). -/
def execStaZp (z : Byte) (s : State) : StepResult := writeMem 0x85 (.zp z) Cpu.a s

/-- STA ABS (R153). -/
def execStaAbs (a : Addr) (s : State) : StepResult := writeMem 0x8D (.abs a) Cpu.a s

/-- STA IZY (R153). -/
def execStaIzy (z : Byte) (s : State) : StepResult := writeMem 0x91 (.izy z) Cpu.a s

/-- STA ZPX (R153). -/
def execStaZpx (z : Byte) (s : State) : StepResult := writeMem 0x95 (.zpx z) Cpu.a s

/-- STA ABY (R153). -/
def execStaAby (a : Addr) (s : State) : StepResult := writeMem 0x99 (.aby a) Cpu.a s

/-- STA ABX (R153). -/
def execStaAbx (a : Addr) (s : State) : StepResult := writeMem 0x9D (.abx a) Cpu.a s

/-- STX ZP (R154). -/
def execStxZp (z : Byte) (s : State) : StepResult := writeMem 0x86 (.zp z) Cpu.x s

/-- STX ABS (R154). -/
def execStxAbs (a : Addr) (s : State) : StepResult := writeMem 0x8E (.abs a) Cpu.x s

/-- STX ZPY (R154). -/
def execStxZpy (z : Byte) (s : State) : StepResult := writeMem 0x96 (.zpy z) Cpu.x s

/-- STY ZP (R155). -/
def execStyZp (z : Byte) (s : State) : StepResult := writeMem 0x84 (.zp z) Cpu.y s

/-- STY ABS (R155). -/
def execStyAbs (a : Addr) (s : State) : StepResult := writeMem 0x8C (.abs a) Cpu.y s

/-- STY ZPX (R155). -/
def execStyZpx (z : Byte) (s : State) : StepResult := writeMem 0x94 (.zpx z) Cpu.y s

/-- TAX IMP (R156). -/
def execTax (s : State) : StepResult := implied 0xAA (fun c => c.writeX c.a) s

/-- TAY IMP (R157). -/
def execTay (s : State) : StepResult := implied 0xA8 (fun c => c.writeY c.a) s

/-- TXA IMP (R158). -/
def execTxa (s : State) : StepResult := implied 0x8A (fun c => c.writeA c.x) s

/-- TYA IMP (R159). -/
def execTya (s : State) : StepResult := implied 0x98 (fun c => c.writeA c.y) s

/-- TSX IMP (R160). -/
def execTsx (s : State) : StepResult := implied 0xBA (fun c => c.writeX c.s) s

/-- TXS IMP (R161). -/
def execTxs (s : State) : StepResult := implied 0x9A (fun c => c.writeS c.x) s

end Sys2Proof.Machine
end

