-- ==== Sys2Proof/Machine/Shift.lean ====
section
/-! DEFINITION. Shifts and rotates by one bit through the carry (42_shift_rotate.md R190 to R194). Each meaning runs with `PC` at the next instruction. -/

namespace Sys2Proof.Machine

/-- ASL (R191). -/
def asl (m : Byte) (c : Cpu) : Modified := shifted (m <<< 1) (m.getLsbD 7) c

/-- LSR (R192). -/
def lsr (m : Byte) (c : Cpu) : Modified := shifted (m >>> 1) (m.getLsbD 0) c

/-- ROL (R193): the carry enters at bit 0. -/
def rol (m : Byte) (c : Cpu) : Modified :=
  shifted ((m <<< 1) ||| (BitVec.ofBool (c.flag .C)).zeroExtend 8) (m.getLsbD 7) c

/-- ROR (R194): the carry enters at bit 7. -/
def ror (m : Byte) (c : Cpu) : Modified :=
  shifted ((m >>> 1) ||| ((BitVec.ofBool (c.flag .C)).zeroExtend 8 <<< 7)) (m.getLsbD 0) c

/-- ASL ZP (R191). -/
def execAslZp (z : Byte) (s : State) : StepResult := modifyMem 0x06 (.zp z) asl s

/-- ASL ACC (R191). -/
def execAslAcc (s : State) : StepResult := modifyAcc 0x0A asl s

/-- ASL ABS (R191). -/
def execAslAbs (a : Addr) (s : State) : StepResult := modifyMem 0x0E (.abs a) asl s

/-- ASL ZPX (R191). -/
def execAslZpx (z : Byte) (s : State) : StepResult := modifyMem 0x16 (.zpx z) asl s

/-- ASL ABX (R191). -/
def execAslAbx (a : Addr) (s : State) : StepResult := modifyMem 0x1E (.abx a) asl s

/-- LSR ZP (R192). -/
def execLsrZp (z : Byte) (s : State) : StepResult := modifyMem 0x46 (.zp z) lsr s

/-- LSR ACC (R192). -/
def execLsrAcc (s : State) : StepResult := modifyAcc 0x4A lsr s

/-- LSR ABS (R192). -/
def execLsrAbs (a : Addr) (s : State) : StepResult := modifyMem 0x4E (.abs a) lsr s

/-- LSR ZPX (R192). -/
def execLsrZpx (z : Byte) (s : State) : StepResult := modifyMem 0x56 (.zpx z) lsr s

/-- LSR ABX (R192). -/
def execLsrAbx (a : Addr) (s : State) : StepResult := modifyMem 0x5E (.abx a) lsr s

/-- ROL ZP (R193). -/
def execRolZp (z : Byte) (s : State) : StepResult := modifyMem 0x26 (.zp z) rol s

/-- ROL ACC (R193). -/
def execRolAcc (s : State) : StepResult := modifyAcc 0x2A rol s

/-- ROL ABS (R193). -/
def execRolAbs (a : Addr) (s : State) : StepResult := modifyMem 0x2E (.abs a) rol s

/-- ROL ZPX (R193). -/
def execRolZpx (z : Byte) (s : State) : StepResult := modifyMem 0x36 (.zpx z) rol s

/-- ROL ABX (R193). -/
def execRolAbx (a : Addr) (s : State) : StepResult := modifyMem 0x3E (.abx a) rol s

/-- ROR ZP (R194). -/
def execRorZp (z : Byte) (s : State) : StepResult := modifyMem 0x66 (.zp z) ror s

/-- ROR ACC (R194). -/
def execRorAcc (s : State) : StepResult := modifyAcc 0x6A ror s

/-- ROR ABS (R194). -/
def execRorAbs (a : Addr) (s : State) : StepResult := modifyMem 0x6E (.abs a) ror s

/-- ROR ZPX (R194). -/
def execRorZpx (z : Byte) (s : State) : StepResult := modifyMem 0x76 (.zpx z) ror s

/-- ROR ABX (R194). -/
def execRorAbx (a : Addr) (s : State) : StepResult := modifyMem 0x7E (.abx a) ror s

end Sys2Proof.Machine
end

