-- ==== Sys2Proof/Machine/System.lean ====
section
/-! DEFINITION. Stack, flag and system instructions (44_stack_flags_system.md R220 to R233). Each meaning runs with `PC` at the next instruction. -/

namespace Sys2Proof.Machine

/-- PHA IMP (R220). -/
def execPha (s : State) : StepResult := finish 0x48 0 (push s.cpu.a s)

/-- PHP IMP (R221). -/
def execPhp (s : State) : StepResult := finish 0x08 0 (push s.cpu.status s)

/-- PLA IMP (R222). -/
def execPla (s : State) : StepResult :=
  let r := pop s
  finish 0x68 0 (r.state.mapCpu (Cpu.writeA r.value))

/-- PLP IMP (R223). -/
def execPlp (s : State) : StepResult :=
  let r := pop s
  finish 0x28 0 (r.state.mapCpu (Cpu.setStatus r.value))

/-- CLC IMP (R224). -/
def execClc (s : State) : StepResult := implied 0x18 (Cpu.putFlag .C false) s

/-- SEC IMP (R225). -/
def execSec (s : State) : StepResult := implied 0x38 (Cpu.putFlag .C true) s

/-- CLI IMP (R226). -/
def execCli (s : State) : StepResult := implied 0x58 (Cpu.putFlag .I false) s

/-- SEI IMP (R227). -/
def execSei (s : State) : StepResult := implied 0x78 (Cpu.putFlag .I true) s

/-- CLV IMP (R228). -/
def execClv (s : State) : StepResult := implied 0xB8 (Cpu.putFlag .V false) s

/-- CLD IMP (R229). -/
def execCld (s : State) : StepResult := implied 0xD8 (Cpu.putFlag .D false) s

/-- SED IMP (R230). -/
def execSed (s : State) : StepResult := implied 0xF8 (Cpu.putFlag .D true) s

/-- NOP IMP (R231). -/
def execNop (s : State) : StepResult := implied 0xEA id s

/-- BRK IMP (R232). -/
def execBrk (s : State) : StepResult :=
  finish 0x00 0 (enterHandler (s.cpu.pc + 1) true brkVector s)

/-- RTI IMP (R233). -/
def execRti (s : State) : StepResult := finish 0x40 0 (leaveHandler s)

end Sys2Proof.Machine
end

