-- ==== Sys2Proof/Machine/Dma.lean ====
section
/-! DEFINITION. The DMA Controller's driven cycle (60_exceptions.md R270 to R274). -/

namespace Sys2Proof.Machine

/-- `DmaCycle()` of an active session (R272): a fetch cycle reads into the latch, a store cycle writes
the latch through the plain bus and destroys the session after its last store (R273). -/
def dmaCycle (d : DmaSession) (s : State) : State :=
  match d.phase with
  | .fetch =>
    let r := busRead (d.sourceBase + BitVec.ofNat 16 d.cursor) s
    { r.state with dma := some { d with latch := r.value, phase := .store } }
  | .store =>
    let s1 := busWrite d.destination d.latch s
    if d.cursor + 1 = d.length then { s1 with dma := none }
    else { s1 with dma := some { d with cursor := d.cursor + 1, phase := .fetch } }

end Sys2Proof.Machine
end

