-- ==== Sys2Proof/Machine/Ppu.lean ====
section
/-! DEFINITION. The Picture Unit's driven cycle: pixel production, the counters, the frame wrap
(60_exceptions.md R255 to R258). -/

namespace Sys2Proof.Machine

/-- The picture-bus address of the nametable byte of a pixel (R257). -/
def nametableAddr (x y : Nat) : PicAddr := BitVec.ofNat 14 (0x2000 + 32 * (y >>> 3) + (x >>> 3))

/-- The picture-bus address of a pixel row's byte in bit plane 0 or 1 of a tile (R257). -/
def planeAddr (bgBase : Bool) (tile : Byte) (plane : Nat) (y : Nat) : PicAddr :=
  BitVec.ofNat 14 ((if bgBase then 0x1000 else 0x0000) + 16 * tile.toNat + 8 * plane + (y &&& 7))

/-- The key of a pixel in the frame buffer. -/
def pixelKey (x y : Nat) : Nat := 256 * y + x

/-- The colour of a pixel of `FB` (10_state.md R60); one never produced is a free value (log 6). -/
def State.pixel (s : State) (x y : Nat) : Rgb :=
  (Sparse.lookup (pixelKey x y) s.ppu.fb).getD (Config.unproducedPixel (pixelKey x y))

/-- `ProducePixel(x, y)` (R257). -/
def producePixel (x y : Nat) (s : State) : State :=
  let tile := picRead (nametableAddr x y) s
  let p0 := picRead (planeAddr s.ppu.bgBase tile.value 0 y) tile.state
  let p1 := picRead (planeAddr s.ppu.bgBase tile.value 1 y) p0.state
  let b := 7 - (x &&& 7)
  let index : BitVec 2 := BitVec.ofBool (p1.value.getLsbD b) ++ BitVec.ofBool (p0.value.getLsbD b)
  p1.state.mapPpu fun p => { p with fb := Sparse.put (pixelKey x y) (paletteOf s.cfg index) p.fb }

/-- The visible raster with rendering enabled (R256, 10_state.md R49). -/
def Ppu.rendering (p : Ppu) : Bool := p.bgEnable && decide (p.scanline < 240) && decide (p.dot < 256)

/-- `FrameWrap()` (R258): the bit, the counter, the signal, then the enabled interrupt. -/
def frameWrap (s : State) : State :=
  let s1 := s.mapPpu fun p => { p.putVblank true with frame := p.frame + 1, frameReady := true }
  if s.ppu.nmiEnable then nmi s1 else s1

/-- The counters' advance (R256). -/
def advanceDot (s : State) : State :=
  if s.ppu.dot + 1 = 341 then
    if s.ppu.scanline + 1 = 262 then
      (frameWrap (s.mapPpu fun p => { p with dot := 0, scanline := 262 })).mapPpu
        fun p => { p with scanline := 0 }
    else s.mapPpu fun p => { p with dot := 0, scanline := p.scanline + 1 }
  else s.mapPpu fun p => { p with dot := p.dot + 1 }

/-- `PpuDot()` (R256): the pixel from the counters before they advance. -/
def ppuDot (s : State) : State :=
  advanceDot (if s.ppu.rendering then producePixel s.ppu.dot s.ppu.scanline s else s)

end Sys2Proof.Machine
end

