-- ==== Sys2Proof/Machine/Cycle.lean ====
section
/-! DEFINITION. The processor's driven cycle (30_encoding.md R140) and the system cycle (60_exceptions.md R280), and where a
program's bytes are put so that the next cycle fetches them (log 3). -/

namespace Sys2Proof.Machine

/-- Go on from a next state; a stop stays a stop. -/
def onNext (f : State → State) : StepResult → StepResult
  | .next s => .next (f s)
  | .fault r => .fault r
  | .refused r => .refused r

/-- `Fetch()`: read the byte at `PC`, then step `PC` (30_encoding.md section 2). -/
def fetch (s : State) : Read :=
  let r := cpuRead s.cpu.pc s
  { r with state := r.state.mapCpu fun c => c.setPC (s.cpu.pc + 1) }

/-- Some bytes read and the machine after the reads. -/
structure BytesRead where
  bytes : List Byte
  state : State
  deriving DecidableEq, Repr

/-- Fetch `n` bytes, in order. -/
def fetchBytes : Nat → State → BytesRead
  | 0, s => { bytes := [], state := s }
  | n + 1, s =>
    let b := fetch s
    let rest := fetchBytes n b.state
    { bytes := b.value :: rest.bytes, state := rest.state }

/-- The fetching state of the processor (R140): the opcode byte, then the operand bytes its format
has, then the instruction; an unmapped opcode byte halts instead (R135). -/
def fetchExecute (s : State) : StepResult :=
  let op := fetch s
  match decodeOpcode op.value with
  | none => .next (raiseUnmapped s.cpu.pc op.value op.state)
  | some (.f1 i) => exec i op.state
  | some (.f2 mk) =>
    let b := fetch op.state
    exec (mk b.value) b.state
  | some (.f3 mk) =>
    let lo := fetch op.state
    let hi := fetch lo.state
    exec (mk (wordOf lo.value hi.value)) hi.state

/-- `CpuCycle()` (R140): halted, idle-decrementing or fetching. -/
def cpuCycle (s : State) : StepResult :=
  if s.halted then .next s
  else if 0 < s.cpu.pending then
    .next (s.mapCpu fun c => { c with pending := c.pending - 1 })
  else fetchExecute s

/-- The first part of a system cycle: a DMA cycle if a session is active, else a processor cycle
(60_exceptions.md R274, R280). -/
def driveBus (s : State) : StepResult :=
  match s.dma with
  | some d => .next (dmaCycle d s)
  | none => cpuCycle s

/-- The three dots of a system cycle (60_exceptions.md R280). -/
def threeDots (s : State) : State := ppuDot (ppuDot (ppuDot s))

/-- `SysCycle()` (60_exceptions.md R280). -/
def sysCycle (s : State) : StepResult := onNext threeDots (driveBus s)

/-- Does a byte array stand behind this address for reads (20_memory.md R84)? -/
def arrayBehind (a : Addr) : Bool :=
  match answering mainDevices a with
  | some .workingRam => true
  | some .programRom => true
  | some .registerWindow => false
  | none => false

/-- Put a byte into the array that answers a read of this address. -/
def placeByte (a : Addr) (b : Byte) (s : State) : State :=
  match answering mainDevices a with
  | some .workingRam => { s with ram := Memory.write s.ram (ramIndex a) b }
  | some .programRom =>
    { s with cfg := { s.cfg with prg := Memory.write s.cfg.prg (prgIndex s.cfg a) b } }
  | some .registerWindow => s
  | none => s

/-- Put bytes at consecutive addresses, modulo 2^16. -/
def placeBytes : Addr → List Byte → State → State
  | _, [], s => s
  | a, b :: bs, s => placeBytes (a + 1) bs (placeByte a b s)

/-- Where the next instruction can be placed: at `PC`, unless one of its three byte addresses lies in
the register window or floats; then at the start of program ROM. -/
def placeAddr (pc : Addr) : Addr :=
  if arrayBehind pc && arrayBehind (pc + 1) && arrayBehind (pc + 2) then pc else 0x8000

/-- The machine about to fetch these bytes: processor running and idle, no DMA session (log 3). -/
def placeAtFetch (bytes : List Byte) (s : State) : State :=
  let pc := placeAddr s.cpu.pc
  placeBytes pc bytes
    { s with dma := none, cpu := { s.cpu with pc := pc, pending := 0, halt := none } }

end Sys2Proof.Machine
end

