-- ==== Sys2Proof/Machine/Step.lean ====
section
/-! DEFINITION. One step of the machine is one system cycle (60_exceptions.md R280; log 15). -/

namespace Sys2Proof.Machine

/-- `driveCycle()`: `SysCycle()` (60_exceptions.md R280, R282). -/
def step (s : State) : Host.Outcome State Fault Refusal := sysCycle s

/-- The machine about to fetch the instruction of an opcode-table word (log 3). -/
def State.withFetchWord (s : State) (nbits w : Nat) : State := placeAtFetch (tableBytes nbits w) s

end Sys2Proof.Machine
end

