-- ==== Sys2Proof/Machine/HostOps.lean ====
section
/-! DEFINITION. The operations of the surrounding application: building the machine, `reset()`, `renderFrame()`
(70_reset_and_hazards.md R300 to R303, 60_exceptions.md R281 to R283). -/

namespace Sys2Proof.Machine

/-- Power-on (R300): the parameters, the three initial memories, everything else zero. The processor
registers, the bus latches and the frame buffer have no power-on value in the spec (log 5, 6, 7). -/
def powerOn (cfg : Config) (initRam initVram initOam : Memory) : State where
  cfg := cfg
  cpu := { a := 0, x := 0, y := 0, s := 0, p := 0x30, pc := 0, pending := 0, halt := none }
  mainBus := { address := 0, value := 0, direction := .read }
  picBus := { address := 0, value := 0, direction := .read }
  ram := initRam
  vram := initVram
  dma := none
  ppu :=
    { ctrl := 0, mask := 0, status := 0, oamaddr := 0, scrollLast := 0, addrLast := 0, dataLast := 0,
      v := 0, t := 0, w := false, oam := initOam, dot := 0, scanline := 0, frame := 0,
      frameReady := false, fb := [] }
  reports := []
  floatReads := 0

/-- `reset()` (R301): the processor's registers, `pending` and the halt; nothing else (R302). -/
def hostReset (s : State) : State :=
  let target := read16 resetVector s
  target.state.mapCpu fun _ =>
    { a := 0x00, x := 0x00, y := 0x00, s := 0xFF, p := 0x34, pc := target.value, pending := 0,
      halt := none }

/-- The most system cycles a frame takes (60_exceptions.md R281). -/
def frameCycles : Nat := 29781

/-- Drive system cycles, at most `k`, until the frame signal is up, then clear it. -/
def driveUntilFrame : Nat → State → StepResult
  | 0, _ => .fault .frameNotReached
  | k + 1, s =>
    match step s with
    | .next t =>
      if t.ppu.frameReady then .next (t.mapPpu fun p => { p with frameReady := false })
      else driveUntilFrame k t
    | .fault r => .fault r
    | .refused r => .refused r

/-- `renderFrame()` (60_exceptions.md R281; log 13). -/
def renderFrame (s : State) : StepResult := driveUntilFrame frameCycles s

end Sys2Proof.Machine
end

