-- ==== Sys2Proof/WellFormed.lean ====
section
/-! DEFINITION. Well-formedness. Every value of `Instr` is an instruction: an opcode byte either selects one or is unmapped,
and every value of every operand byte is legal (30_encoding.md R136), so no check falls on `Instr`. What
can be ill-formed is what the host supplies: the configuration. -/

namespace Sys2Proof

open Sys2Proof.Machine (cyclesOf)

/-- `PRG` is an array of `PRG_SIZE` bytes in canonical form (00_scope.md R10). -/
def Config.prgOk (c : Config) : Bool := Memory.wf c.prgSize.bytes c.prg

/-- `CHR` is an array of `CHR_SIZE` bytes in canonical form (00_scope.md R10). -/
def Config.chrOk (c : Config) : Bool := Memory.wf chrBytes c.chr

/-- Every mapped opcode takes at least one cycle (70_reset_and_hazards.md R323; log 16). -/
def Config.cyclesOk (c : Config) : Bool := opcodeTable.all fun e => decide (0 < cyclesOf c e.1)

/-- A well-formed configuration. -/
def Config.wf (c : Config) : Bool := c.prgOk && c.chrOk && c.cyclesOk

end Sys2Proof
end

