-- ==== Sys2Proof/Safety.lean ====
section
/-! DEFINITION. The invariant of the machine, what 10_state.md says of the legal values of each piece of state; and the terms the
statements use: the status word written out bit by bit, the operand an instruction reads, agents run
for a number of driven cycles. -/

namespace Sys2Proof.Machine

/-- The legal values of a DMA session of this machine (10_state.md R46, 60_exceptions.md R271 to R273). -/
structure DmaSession.Legal (d : DmaSession) : Prop where
  destination_is_oam_data : d.destination = 0x2004
  length_is_page : d.length = 256
  cursor_inside : d.cursor < 256
  source_is_page : loByte d.sourceBase = 0

/-- The invariant that every step keeps. -/
structure Invariant (s : State) : Prop where
  /-- The configuration is well formed (00_scope.md R10). -/
  cfg_wf : s.cfg.wf = true
  /-- Working RAM is a canonical array of 2048 bytes (R42). -/
  ram_wf : Memory.wf 2048 s.ram = true
  /-- Picture RAM is a canonical array of 2048 bytes (R45). -/
  vram_wf : Memory.wf 2048 s.vram = true
  /-- OAM is a canonical array of 256 bytes (R57). -/
  oam_wf : Memory.wf 256 s.ppu.oam = true
  /-- The frame buffer lists each of its 256 * 240 pixels at most once (R60). -/
  fb_sorted : Sparse.sorted s.ppu.fb = true
  fb_inside : ∀ c ∈ s.ppu.fb, c.1 < 256 * 240
  /-- Bits 4 and 5 of `P` are 1 (R35). -/
  p_always_present : s.cpu.p &&& 0x30 = 0x30
  /-- Bits 6 to 0 of status are 0 (R50). -/
  status_low_zero : s.ppu.status &&& 0x7F = 0
  /-- The counters' ranges (R58). -/
  dot_range : s.ppu.dot ≤ 340
  scanline_range : s.ppu.scanline ≤ 261
  /-- A DMA session is one `DmaBegin` could have armed (R46). -/
  dma_legal : ∀ d, s.dma = some d → d.Legal
  /-- A halted processor owes no cycles (60_exceptions.md R240). -/
  halted_idle : s.halted = true → s.cpu.pending = 0

/-- A status word with the six flags given, laid out `N V . . D I Z C` (10_state.md R33), bits 4 and 5
as in `p`. -/
def statusWord (p : Byte) (n v d i z c : Bool) : Byte :=
  BitVec.ofBool n ++ BitVec.ofBool v ++ p.extractLsb' 4 2 ++ BitVec.ofBool d ++ BitVec.ofBool i ++
    BitVec.ofBool z ++ BitVec.ofBool c

/-- `P` after `SetNZ(r)` alone (00_scope.md R17). -/
def withNZ (r p : Byte) : Byte :=
  statusWord p (r.getLsbD 7) (p.getLsbD 6) (p.getLsbD 3) (p.getLsbD 2) (r == 0) (p.getLsbD 0)

/-- `P` after `SetNZ(r)` and a new carry. -/
def withNZC (r : Byte) (c : Bool) (p : Byte) : Byte :=
  statusWord p (r.getLsbD 7) (p.getLsbD 6) (p.getLsbD 3) (p.getLsbD 2) (r == 0) c

/-- `P` after `SetNZ(r)` and a new carry and overflow. -/
def withNZCV (r : Byte) (c v : Bool) (p : Byte) : Byte :=
  statusWord p (r.getLsbD 7) v (p.getLsbD 3) (p.getLsbD 2) (r == 0) c

/-- The operand value of a read-class instruction, whether its mode crossed a page, and the machine
after the accesses. -/
structure Fetched where
  value : Byte
  crossed : Bool
  state : State

/-- The operand a read-class instruction reads, in whichever mode it has (30_encoding.md R134). -/
def sourceOf (i : Instr) (s : State) : Option Fetched :=
  match i.operand with
  | .imm b => some { value := b, crossed := false, state := s }
  | .mem m =>
    let l := locate m s
    let r := cpuRead l.ea l.state
    some { value := r.value, crossed := l.crossed, state := r.state }
  | .imp => none
  | .acc => none
  | .ind _ => none
  | .rel _ => none

/-- `n - 1` with `n = CYCLES[op] + penalty`: the cycles an instruction still owes after its fetching
cycle (30_encoding.md R141). -/
def owed (i : Instr) (penalty : Nat) (s : State) : Nat := cyclesOf s.cfg i.opcode + penalty - 1

/-- The latches after a read of `a` that returned `v` (10_state.md R40). -/
def readLatch {w : Nat} (a : BitVec w) (v : Byte) : BusLatch w := { address := a, value := v, direction := .read }

/-- The latches after a write of `v` at `a` (10_state.md R40). -/
def writeLatch {w : Nat} (a : BitVec w) (v : Byte) : BusLatch w := { address := a, value := v, direction := .write }

/-- `DmaCycle()` driven `n` times, for as long as the session lasts (60_exceptions.md R272, R273). -/
def driveDma : Nat → State → State
  | 0, s => s
  | n + 1, s =>
    match s.dma with
    | none => s
    | some d => driveDma n (dmaCycle d s)

/-- `PpuDot()` driven `n` times (60_exceptions.md R256). -/
def driveDots : Nat → State → State
  | 0, s => s
  | n + 1, s => driveDots n (ppuDot s)

/-- How many dots of the frame have been driven: 341 a scanline (60_exceptions.md R256). -/
def dotsDone (s : State) : Nat := 341 * s.ppu.scanline + s.ppu.dot

/-- Does this opcode-table form store to a memory operand (30_encoding.md R134)? -/
def storesOperand (i : Instr) : Bool :=
  match i.operand with
  | .mem _ => decide (i.mnemonic ∈ [.sta, .stx, .sty, .inc, .dec, .asl, .lsr, .rol, .ror])
  | .imp => false
  | .acc => false
  | .imm _ => false
  | .ind _ => false
  | .rel _ => false

/-- Does this instruction push onto the stack page (20_memory.md R111)? -/
def pushes (i : Instr) : Bool := decide (i.mnemonic ∈ [.pha, .php, .jsr, .brk])

/-- The machine a storing form's write is applied to: a store writes right after its mode's accesses,
a read-modify-write after reading its operand too (30_encoding.md R134). -/
def beforeStore (i : Instr) (m : MemMode) (s : State) : State :=
  let l := locate m s
  if i.mnemonic ∈ [.sta, .stx, .sty] then l.state else (cpuRead l.ea l.state).state

/-- The result of a shift or rotate and the bit moved out, as one 9-bit string (42_shift_rotate.md R191 to
R194): the bits of `M` moved by one place, 0 or the carry entering. -/
def shiftResult (m : Mnemonic) (v : Byte) (carry : Bool) : Byte × Bool :=
  match m with
  | .asl => (v.extractLsb' 0 7 ++ 0#1, v.getLsbD 7)
  | .lsr => (0#1 ++ v.extractLsb' 1 7, v.getLsbD 0)
  | .rol => (v.extractLsb' 0 7 ++ BitVec.ofBool carry, v.getLsbD 7)
  | _ => (BitVec.ofBool carry ++ v.extractLsb' 1 7, v.getLsbD 0)

/-- The condition of each branch (R205 to R212). -/
def branchCondition (m : Mnemonic) (p : Byte) : Bool :=
  match m with
  | .bcc => !p.getLsbD 0
  | .bcs => p.getLsbD 0
  | .bne => !p.getLsbD 1
  | .beq => p.getLsbD 1
  | .bvc => !p.getLsbD 6
  | .bvs => p.getLsbD 6
  | .bpl => !p.getLsbD 7
  | _ => p.getLsbD 7

/-- A handler entry, written out (60_exceptions.md R244, R249, 44_stack_flags_system.md R232): the return
address high byte first, then the status word as it stands, at `S`, `S - 1`, `S - 2` in the stack page; `S`
lowered by three; `PC` from the vector, low byte first, out of program ROM. -/
def entered (ret : Addr) (vector : Nat) (s : State) : State :=
  let hi := BitVec.ofNat 8 (ret.toNat / 256)
  let lo := BitVec.ofNat 8 ret.toNat
  let p1 := BitVec.ofNat 8 (s.cpu.s.toNat + 255)
  let p2 := BitVec.ofNat 8 (s.cpu.s.toNat + 254)
  let vlo := Memory.read s.cfg.prg (vector % s.cfg.prgSize.bytes)
  let vhi := Memory.read s.cfg.prg ((vector + 1) % s.cfg.prgSize.bytes)
  { s with
    ram :=
      Memory.write
        (Memory.write (Memory.write s.ram (256 + s.cpu.s.toNat) hi) (256 + p1.toNat) lo)
        (256 + p2.toNat) (s.cpu.p ||| 0x30)
    mainBus := readLatch (BitVec.ofNat 16 (vector + 1)) vhi
    cpu := { s.cpu with
      s := BitVec.ofNat 8 (s.cpu.s.toNat + 253), pc := BitVec.ofNat 16 (256 * vhi.toNat + vlo.toNat) } }

end Sys2Proof.Machine
end

