-- ==== Sys2Proof/Certificates/Slice0/Obligations.lean ====
section
/-! DEFINITION. The statements for the provers, each from the numbered rules it names. "Rests on" names what the spec marks as
its own decision (92_eei_decisions.md D1 to D40), inference or general knowledge, and the log entries, behind them. -/

open Sys2Proof Sys2Proof.Machine

/-! ### Encoding -/

/-- Decoding the bytes of any instruction, whatever follows them, gives it back and leaves the rest
(30_encoding.md R120, R122, R133, R137).
Rests on D1; the table of R133 (general knowledge). -/
def Obligations.DecodeEncodeRoundTrip : Prop :=
  ∀ (i : Instr) (rest : List Byte), decode (encode i ++ rest) = .ok i rest

/-- Bytes that decode are exactly the bytes of the instruction they decode to, and the rest (R121, R136).
Rests on R136 (the spec's own inference). -/
def Obligations.DecodedBytesAreTheEncoding : Prop :=
  ∀ (bytes rest : List Byte) (i : Instr), decode bytes = .ok i rest → bytes = encode i ++ rest

/-- The opcode bytes rejected as unmapped are the 105 of R135, and no others.
Rests on D1. -/
def Obligations.UnmappedOpcodesAreTheListedOnes : Prop :=
  ∀ (op : Byte) (rest : List Byte), decode (op :: rest) = .unmapped op ↔
    op ∈ ([0x02, 0x03, 0x04, 0x07, 0x0B, 0x0C, 0x0F, 0x12, 0x13, 0x14, 0x17, 0x1A, 0x1B, 0x1C, 0x1F,
      0x22, 0x23, 0x27, 0x2B, 0x2F, 0x32, 0x33, 0x34, 0x37, 0x3A, 0x3B, 0x3C, 0x3F, 0x42, 0x43, 0x44,
      0x47, 0x4B, 0x4F, 0x52, 0x53, 0x54, 0x57, 0x5A, 0x5B, 0x5C, 0x5F] ++
      [0x62, 0x63, 0x64, 0x67, 0x6B, 0x6F, 0x72, 0x73, 0x74, 0x77, 0x7A, 0x7B, 0x7C, 0x7F, 0x80, 0x82,
      0x83, 0x87, 0x89, 0x8B, 0x8F, 0x92, 0x93, 0x97, 0x9B, 0x9C, 0x9E, 0x9F, 0xA3, 0xA7, 0xAB, 0xAF,
      0xB2, 0xB3, 0xB7, 0xBB, 0xBF] ++
      [0xC2, 0xC3, 0xC7, 0xCB, 0xCF, 0xD2, 0xD3, 0xD4, 0xD7, 0xDA, 0xDB, 0xDC, 0xDF, 0xE2, 0xE3, 0xE7,
      0xEB, 0xEF, 0xF2, 0xF3, 0xF4, 0xF7, 0xFA, 0xFB, 0xFC, 0xFF] : List Byte)

/-- Words written out from the opcode table, one of each family, decode to what they stand for (R133,
R138).
Rests on D1; the table of R133 and the syntax of R138 (general knowledge). -/
def Obligations.SampleWordsDecode : Prop :=
  decode [0xA9, 0x05, 0x8D, 0x00, 0x20] = .ok (.ldaImm 0x05) [0x8D, 0x00, 0x20] ∧
  decode [0x8D, 0x00, 0x20] = .ok (.staAbs 0x2000) [] ∧
  decode [0x79, 0x34, 0x12] = .ok (.adcAby 0x1234) [] ∧
  decode [0x6E, 0x01, 0x02] = .ok (.rorAbs 0x0201) [] ∧
  decode [0x6C, 0x00, 0x03] = .ok (.jmpInd 0x0300) [] ∧
  decode [0xD0, 0xF9] = .ok (.bne 0xF9) [] ∧
  decode [0x40] = .ok .rti [] ∧
  decode [0x20, 0x34] = .truncated ∧
  decode [0x02, 0x00, 0x00] = .unmapped 0x02

/-! ### Addressing modes -/

/-- Each memory mode's effective address, page-cross test and accesses, its operand bytes given (R125 to
R130). -/
def Obligations.MemoryModesGiveTheEffectiveAddress : Prop :=
  ∀ (s : State) (z : Byte) (a : Addr),
    locate (.zp z) s = { ea := BitVec.ofNat 16 z.toNat, crossed := false, state := s } ∧
    locate (.zpx z) s =
      { ea := BitVec.ofNat 16 ((z.toNat + s.cpu.x.toNat) % 256), crossed := false, state := s } ∧
    locate (.zpy z) s =
      { ea := BitVec.ofNat 16 ((z.toNat + s.cpu.y.toNat) % 256), crossed := false, state := s } ∧
    locate (.abs a) s = { ea := a, crossed := false, state := s } ∧
    locate (.abx a) s =
      { ea := BitVec.ofNat 16 (a.toNat + s.cpu.x.toNat),
        crossed := decide (256 ≤ a.toNat % 256 + s.cpu.x.toNat), state := s } ∧
    locate (.aby a) s =
      { ea := BitVec.ofNat 16 (a.toNat + s.cpu.y.toNat),
        crossed := decide (256 ≤ a.toNat % 256 + s.cpu.y.toNat), state := s } ∧
    (let p := (z.toNat + s.cpu.x.toNat) % 256
     let lo := Memory.read s.ram p
     let hi := Memory.read s.ram ((p + 1) % 256)
     locate (.izx z) s =
      { ea := BitVec.ofNat 16 (256 * hi.toNat + lo.toNat), crossed := false,
        state := { s with mainBus := readLatch (BitVec.ofNat 16 ((p + 1) % 256)) hi } }) ∧
    (let lo := Memory.read s.ram z.toNat
     let hi := Memory.read s.ram ((z.toNat + 1) % 256)
     locate (.izy z) s =
      { ea := BitVec.ofNat 16 (256 * hi.toNat + lo.toNat + s.cpu.y.toNat),
        crossed := decide (256 ≤ lo.toNat + s.cpu.y.toNat),
        state := { s with mainBus := readLatch (BitVec.ofNat 16 ((z.toNat + 1) % 256)) hi } })

/-- Mode IND: two reads, the second from the same page as the first (R131).
Rests on D14. -/
def Obligations.IndirectPointerStaysInItsPage : Prop :=
  ∀ (ptr : Addr) (s : State),
    let lo := cpuRead ptr s
    let hi := cpuRead (BitVec.ofNat 16 (256 * (ptr.toNat / 256) + (ptr.toNat + 1) % 256)) lo.state
    indirect ptr s = { value := BitVec.ofNat 16 (256 * hi.value.toNat + lo.value.toNat), state := hi.state }

/-! ### Buses -/

/-- The main-bus map for reads (20_memory.md R84): which array, register or nothing answers each
address, and the latches afterwards (10_state.md R40).
Rests on R84 (the spec's own inference). -/
def Obligations.MainBusReadMap : Prop :=
  ∀ (a : Addr) (s : State),
    ((a.toNat ≤ 0x1FFF ∨ (0x4001 ≤ a.toNat ∧ a.toNat ≤ 0x5FFF)) →
      busRead a s =
        { value := Memory.read s.ram (a.toNat % 2048),
          state := { s with mainBus := readLatch a (Memory.read s.ram (a.toNat % 2048)) } }) ∧
    (((0x2000 ≤ a.toNat ∧ a.toNat ≤ 0x3FFF) ∨ (0x6000 ≤ a.toNat ∧ a.toNat ≤ 0x7FFF)) →
      busRead a s =
        { value := ((PpuReg.ofAddr a).read s).value,
          state :=
            { ((PpuReg.ofAddr a).read s).state with
              mainBus := readLatch a ((PpuReg.ofAddr a).read s).value } }) ∧
    (0x8000 ≤ a.toNat →
      busRead a s =
        { value := Memory.read s.cfg.prg (a.toNat % s.cfg.prgSize.bytes),
          state :=
            { s with mainBus := readLatch a (Memory.read s.cfg.prg (a.toNat % s.cfg.prgSize.bytes)) } }) ∧
    (a = 0x4000 →
      busRead a s =
        { value := (floating s).value,
          state := { (floating s).state with mainBus := readLatch a (floating s).value } })

/-- A floating read returns `FLOAT` and has no side effect (R77): the constant, or the next draw, of which
only the model's count of draws keeps track (log 1).
Rests on D5, log 1. -/
def Obligations.FloatingReadReturnsFloat : Prop :=
  (∀ (s : State) (b : Byte), s.cfg.float = .constant b → floating s = { value := b, state := s }) ∧
  ∀ s : State, s.cfg.float = .draw →
    floating s =
      { value := Config.freeByte s.floatReads, state := { s with floatReads := s.floatReads + 1 } }

/-- The main-bus map for writes (R85): Working RAM and the register window receive a write
independently, program ROM and the unmapped addresses keep nothing.
Rests on R85 (the spec's own inference). -/
def Obligations.MainBusWriteMap : Prop :=
  ∀ (a : Addr) (v : Byte) (s : State),
    let latched := { s with mainBus := writeLatch a v }
    let toRam :=
      if a.toNat % 0x2000 ≠ 0 ∨ a = 0 then
        { latched with ram := Memory.write s.ram (a.toNat % 2048) v }
      else latched
    busWrite a v s = if a.getLsbD 13 then (PpuReg.ofAddr a).write v toRam else toRam

/-- The picture-bus map (R90): pattern ROM below 0x2000, picture RAM from there on, for reads and writes;
so no picture-bus read floats (R88).
Rests on D8, D23; R90 and the last clause of R88 (the spec's own inference). -/
def Obligations.PictureBusMap : Prop :=
  ∀ (a : PicAddr) (v : Byte) (s : State),
    (a.toNat ≤ 0x1FFF →
      picRead a s =
        { value := Memory.read s.cfg.chr (a.toNat % 8192),
          state := { s with picBus := readLatch a (Memory.read s.cfg.chr (a.toNat % 8192)) } } ∧
      picWrite a v s = { s with picBus := writeLatch a v }) ∧
    (0x2000 ≤ a.toNat →
      picRead a s =
        { value := Memory.read s.vram (a.toNat % 2048),
          state := { s with picBus := readLatch a (Memory.read s.vram (a.toNat % 2048)) } } ∧
      picWrite a v s =
        { s with picBus := writeLatch a v, vram := Memory.write s.vram (a.toNat % 2048) v })

/-- `CpuWrite` (R93): the bus write first; then, at the 32 internal-register addresses only, the DMA
trigger (R95) or the report, which changes nothing but the model's list of reports (R94; log 10).
Rests on D33, log 10. -/
def Obligations.ProcessorWritesAreIntercepted : Prop :=
  ∀ (a : Addr) (v : Byte) (s : State),
    ((a.toNat < 0x4000 ∨ 0x401F < a.toNat) → cpuWrite a v s = busWrite a v s) ∧
    (a = 0x4014 →
      cpuWrite a v s =
        { s with
          ram := Memory.write s.ram 0x014 v
          mainBus := writeLatch 0x4014 v
          dma := some
            { sourceBase := BitVec.ofNat 16 (256 * v.toNat), destination := 0x2004, length := 256,
              cursor := 0, phase := .fetch, latch := 0x00 } }) ∧
    ((0x4000 ≤ a.toNat ∧ a.toNat ≤ 0x401F ∧ a ≠ 0x4014) →
      cpuWrite a v s =
        { busWrite a v s with reports := { addr := a, value := v } :: s.reports })

/-- A read of Working RAM returns the last byte written to the same cell, through any mirror, and a write
leaves every other cell as it was (R81, R102). -/
def Obligations.RamReadAfterWrite : Prop :=
  ∀ (a b : Addr) (v : Byte) (s : State),
    a.toNat ≤ 0x1FFF → b.toNat ≤ 0x1FFF →
      (a.toNat % 2048 = b.toNat % 2048 → (busRead b (busWrite a v s)).value = v) ∧
      (a.toNat % 2048 ≠ b.toNat % 2048 → (busRead b (busWrite a v s)).value = (busRead b s).value)

/-- What a main-bus read may change (R100): the latches, `vblank` by a read of register 0, `w` by a read of
register 2, `v` by a read of register 7, the model's count of draws (log 1), and nothing else.
Rests on D11, log 1. -/
def Obligations.BusReadFrame : Prop :=
  ∀ (a : Addr) (s : State),
    let t := (busRead a s).state
    let inWindow := a.getLsbD 13 = true ∧ a.getLsbD 15 = false
    t = { s with
      mainBus := t.mainBus
      picBus := t.picBus
      floatReads := t.floatReads
      ppu := { s.ppu with status := t.ppu.status, w := t.ppu.w, v := t.ppu.v } } ∧
    (¬ (inWindow ∧ a.toNat % 8 = 0) → t.ppu.status = s.ppu.status) ∧
    (¬ (inWindow ∧ a.toNat % 8 = 2) → t.ppu.w = s.ppu.w) ∧
    (¬ (inWindow ∧ a.toNat % 8 = 7) → t.ppu.v = s.ppu.v ∧ t.picBus = s.picBus) ∧
    (a ≠ 0x4000 → t.floatReads = s.floatReads)

/-! ### Picture Unit registers -/

/-- The value and the side effect of a read of each register (60_exceptions.md R259 to R262), and which
register an address selects (20_memory.md R83).
Rests on D25, D32, D40. -/
def Obligations.PictureRegisterReads : Prop :=
  ∀ (a : Addr) (s : State),
    let r := (PpuReg.ofAddr a).read s
    (a.toNat % 8 = 0 →
      r.value = s.ppu.ctrl ∧
      r.state = { s with ppu := { s.ppu with status := s.ppu.status &&& 0x7F } }) ∧
    (a.toNat % 8 = 1 → r.value = s.ppu.mask ∧ r.state = s) ∧
    (a.toNat % 8 = 2 →
      r.value = s.ppu.status ∧ r.state = { s with ppu := { s.ppu with w := false } }) ∧
    (a.toNat % 8 = 3 → r.value = s.ppu.oamaddr ∧ r.state = s) ∧
    (a.toNat % 8 = 4 → r.value = Memory.read s.ppu.oam s.ppu.oamaddr.toNat ∧ r.state = s) ∧
    (a.toNat % 8 = 5 → r.value = s.ppu.scrollLast ∧ r.state = s) ∧
    (a.toNat % 8 = 6 → r.value = s.ppu.addrLast ∧ r.state = s) ∧
    (a.toNat % 8 = 7 →
      r.value = (picRead s.ppu.v s).value ∧
      r.state =
        { (picRead s.ppu.v s).state with
          ppu :=
            { s.ppu with
              v := BitVec.ofNat 14 (s.ppu.v.toNat + if s.ppu.ctrl.getLsbD 2 then 32 else 1) } })

/-- The effect of a write of each register (R263 to R269).
Rests on D25, D32. -/
def Obligations.PictureRegisterWrites : Prop :=
  ∀ (a : Addr) (b : Byte) (s : State),
    let t := (PpuReg.ofAddr a).write b s
    (a.toNat % 8 = 0 → t = { s with ppu := { s.ppu with ctrl := b } }) ∧
    (a.toNat % 8 = 1 → t = { s with ppu := { s.ppu with mask := b } }) ∧
    (a.toNat % 8 = 2 → t = s) ∧
    (a.toNat % 8 = 3 → t = { s with ppu := { s.ppu with oamaddr := b } }) ∧
    (a.toNat % 8 = 4 →
      t = { s with
        ppu :=
          { s.ppu with
            oam := Memory.write s.ppu.oam s.ppu.oamaddr.toNat b
            oamaddr := BitVec.ofNat 8 (s.ppu.oamaddr.toNat + 1) } }) ∧
    (a.toNat % 8 = 5 → t = { s with ppu := { s.ppu with scrollLast := b, w := !s.ppu.w } }) ∧
    (a.toNat % 8 = 6 → s.ppu.w = false →
      t = { s with
        ppu :=
          { s.ppu with
            addrLast := b
            t := BitVec.ofNat 14 (256 * (b.toNat % 64) + s.ppu.t.toNat % 256)
            w := true } }) ∧
    (a.toNat % 8 = 6 → s.ppu.w = true →
      t = { s with
        ppu :=
          { s.ppu with
            addrLast := b
            t := BitVec.ofNat 14 (256 * (s.ppu.t.toNat / 256) + b.toNat)
            v := BitVec.ofNat 14 (256 * (s.ppu.t.toNat / 256) + b.toNat)
            w := false } }) ∧
    (a.toNat % 8 = 7 →
      t = { picWrite s.ppu.v b s with
        ppu :=
          { s.ppu with
            dataLast := b
            v := BitVec.ofNat 14 (s.ppu.v.toNat + if s.ppu.ctrl.getLsbD 2 then 32 else 1) } })

/-- The safe sequence of 70_reset_and_hazards.md R312: read register 2, write register 6 twice; whatever
the toggle was, `v` and `t` are the 14 bits composed, high bits first, and the toggle is 0.
Rests on D32. -/
def Obligations.AddressWritePairComposesTheLatch : Prop :=
  ∀ (hi lo : Byte) (s : State),
    let t := busWrite 0x2006 lo (busWrite 0x2006 hi (busRead 0x2002 s).state)
    t.ppu.v = BitVec.ofNat 14 (256 * hi.toNat + lo.toNat) ∧ t.ppu.t = t.ppu.v ∧ t.ppu.w = false ∧
      t.ppu.addrLast = lo

/-! ### Loads, stores, transfers -/

/-- LDA, LDX, LDY in every mode (40_load_store_transfer.md R150 to R152).
Rests on D11, D12. -/
def Obligations.LoadsWriteTheRegisterAndNZ : Prop :=
  ∀ (i : Instr) (s : State),
    (i.mnemonic = .lda → ∃ r, sourceOf i s = some r ∧
      exec i s = .next { r.state with
        cpu := { s.cpu with a := r.value, p := withNZ r.value s.cpu.p, pending := owed i r.crossed.toNat s } }) ∧
    (i.mnemonic = .ldx → ∃ r, sourceOf i s = some r ∧
      exec i s = .next { r.state with
        cpu := { s.cpu with x := r.value, p := withNZ r.value s.cpu.p, pending := owed i r.crossed.toNat s } }) ∧
    (i.mnemonic = .ldy → ∃ r, sourceOf i s = some r ∧
      exec i s = .next { r.state with
        cpu := { s.cpu with y := r.value, p := withNZ r.value s.cpu.p, pending := owed i r.crossed.toNat s } })

/-- STA, STX, STY in every mode (R153 to R155): one processor write at the effective address, no register
or flag changed, no page-cross penalty.
Rests on D11, D12. -/
def Obligations.StoresWriteTheRegisterToMemory : Prop :=
  ∀ (i : Instr) (s : State),
    (i.mnemonic = .sta → ∃ m, i.operand = .mem m ∧
      exec i s = .next { cpuWrite (locate m s).ea s.cpu.a (locate m s).state with
        cpu := { s.cpu with pending := owed i 0 s } }) ∧
    (i.mnemonic = .stx → ∃ m, i.operand = .mem m ∧
      exec i s = .next { cpuWrite (locate m s).ea s.cpu.x (locate m s).state with
        cpu := { s.cpu with pending := owed i 0 s } }) ∧
    (i.mnemonic = .sty → ∃ m, i.operand = .mem m ∧
      exec i s = .next { cpuWrite (locate m s).ea s.cpu.y (locate m s).state with
        cpu := { s.cpu with pending := owed i 0 s } })

/-- The six transfers (R156 to R161), each with its encoding and its cycles in the default table: only TXS
leaves the flags alone. -/
def Obligations.TransfersCopyTheRegister : Prop :=
  (∀ e ∈ ([(.tax, 0xAA), (.tay, 0xA8), (.txa, 0x8A), (.tya, 0x98), (.tsx, 0xBA), (.txs, 0x9A)] :
      List (Instr × Byte)), encode e.1 = [e.2] ∧ cyclesOf defaultConfig e.2 = 2) ∧
  ∀ s : State,
    exec .tax s = .next { s with
      cpu := { s.cpu with x := s.cpu.a, p := withNZ s.cpu.a s.cpu.p, pending := owed .tax 0 s } } ∧
    exec .tay s = .next { s with
      cpu := { s.cpu with y := s.cpu.a, p := withNZ s.cpu.a s.cpu.p, pending := owed .tay 0 s } } ∧
    exec .txa s = .next { s with
      cpu := { s.cpu with a := s.cpu.x, p := withNZ s.cpu.x s.cpu.p, pending := owed .txa 0 s } } ∧
    exec .tya s = .next { s with
      cpu := { s.cpu with a := s.cpu.y, p := withNZ s.cpu.y s.cpu.p, pending := owed .tya 0 s } } ∧
    exec .tsx s = .next { s with
      cpu := { s.cpu with x := s.cpu.s, p := withNZ s.cpu.s s.cpu.p, pending := owed .tsx 0 s } } ∧
    exec .txs s = .next { s with cpu := { s.cpu with s := s.cpu.x, pending := owed .txs 0 s } }

/-! ### Arithmetic and logic -/

/-- ADC in every mode (41_arithmetic_logic.md R171): the sum modulo 256, the carry out of it, the signed
overflow, whatever the decimal flag is.
Rests on D3, D11, D12, D35; the overflow of R170 (general knowledge). -/
def Obligations.AdcAddsWithCarry : Prop :=
  ∀ (i : Instr) (s : State), i.mnemonic = .adc →
    ∃ r, sourceOf i s = some r ∧
      let sum := s.cpu.a.toNat + r.value.toNat + (s.cpu.p.getLsbD 0).toNat
      let signed := s.cpu.a.toInt + r.value.toInt + (s.cpu.p.getLsbD 0).toNat
      exec i s = .next { r.state with
        cpu := { s.cpu with
          a := BitVec.ofNat 8 sum
          p := withNZCV (BitVec.ofNat 8 sum) (decide (256 ≤ sum)) (decide (signed < -128 ∨ 127 < signed)) s.cpu.p
          pending := owed i r.crossed.toNat s } }

/-- SBC in every mode (R172): `A - M - (1 - C)` modulo 256, `C` set iff no borrow occurred, `V` the signed
overflow of the difference, whatever the decimal flag is.
Rests on D3, D11, D12, D35; the overflow of R170 (general knowledge). -/
def Obligations.SbcSubtractsWithBorrow : Prop :=
  ∀ (i : Instr) (s : State), i.mnemonic = .sbc →
    ∃ r, sourceOf i s = some r ∧
      let borrow : Int := 1 - (s.cpu.p.getLsbD 0).toNat
      let diff : Int := s.cpu.a.toNat - r.value.toNat - borrow
      let signed : Int := s.cpu.a.toInt - r.value.toInt - borrow
      exec i s = .next { r.state with
        cpu := { s.cpu with
          a := BitVec.ofInt 8 diff
          p := withNZCV (BitVec.ofInt 8 diff) (decide (0 ≤ diff)) (decide (signed < -128 ∨ 127 < signed)) s.cpu.p
          pending := owed i r.crossed.toNat s } }

/-- AND, ORA, EOR in every mode (R173 to R175), bit by bit.
Rests on D11, D12. -/
def Obligations.LogicCombinesBitByBit : Prop :=
  ∀ (i : Instr) (s : State), i.mnemonic ∈ [.and, .ora, .eor] →
    ∃ r v, sourceOf i s = some r ∧
      (∀ k, k < 8 → BitVec.getLsbD v k =
        (if i.mnemonic = .and then s.cpu.a.getLsbD k && r.value.getLsbD k
         else if i.mnemonic = .ora then s.cpu.a.getLsbD k || r.value.getLsbD k
         else s.cpu.a.getLsbD k != r.value.getLsbD k)) ∧
      exec i s = .next { r.state with
        cpu := { s.cpu with a := v, p := withNZ v s.cpu.p, pending := owed i r.crossed.toNat s } }

/-- CMP, CPX, CPY in every mode (R176 to R178): `C` iff the register is not below the operand, `Z` iff
equal, `N` bit 7 of the difference; `V` and every register kept.
Rests on D11, D12. -/
def Obligations.ComparesSetCarryZeroNegative : Prop :=
  ∀ (i : Instr) (s : State), i.mnemonic ∈ [.cmp, .cpx, .cpy] →
    ∃ r, sourceOf i s = some r ∧
      let reg := if i.mnemonic = .cmp then s.cpu.a else if i.mnemonic = .cpx then s.cpu.x else s.cpu.y
      exec i s = .next { r.state with
        cpu := { s.cpu with
          p := statusWord s.cpu.p ((reg - r.value).getLsbD 7) (s.cpu.p.getLsbD 6) (s.cpu.p.getLsbD 3)
            (s.cpu.p.getLsbD 2) (decide (reg = r.value)) (decide (r.value.toNat ≤ reg.toNat))
          pending := owed i r.crossed.toNat s } }

/-- BIT in both modes (R179).
Rests on D11, D12. -/
def Obligations.BitTestsTheOperand : Prop :=
  ∀ (i : Instr) (s : State), i.mnemonic = .bit →
    ∃ r, sourceOf i s = some r ∧
      exec i s = .next { r.state with
        cpu := { s.cpu with
          p := statusWord s.cpu.p (r.value.getLsbD 7) (r.value.getLsbD 6) (s.cpu.p.getLsbD 3)
            (s.cpu.p.getLsbD 2) ((s.cpu.a &&& r.value) == 0) (s.cpu.p.getLsbD 0)
          pending := owed i r.crossed.toNat s } }

/-- INC, DEC in every mode (R180, R181): one read and one write of the effective address, the result
modulo 256, `Z` and `N` from it, the carry kept.
Rests on D11, D12. -/
def Obligations.MemoryIncrementsWrapAndSetNZ : Prop :=
  ∀ (i : Instr) (s : State), i.mnemonic ∈ [.inc, .dec] →
    ∃ m, i.operand = .mem m ∧
      let l := locate m s
      let r := cpuRead l.ea l.state
      let v := BitVec.ofNat 8 (r.value.toNat + if i.mnemonic = .inc then 1 else 255)
      exec i s = .next { cpuWrite l.ea v r.state with
        cpu := { s.cpu with p := withNZ v s.cpu.p, pending := owed i 0 s } }

/-- INX, INY, DEX, DEY (R182 to R185), each with its encoding and its cycles in the default table. -/
def Obligations.IndexIncrementsWrapAndSetNZ : Prop :=
  (∀ e ∈ ([(.inx, 0xE8), (.iny, 0xC8), (.dex, 0xCA), (.dey, 0x88)] : List (Instr × Byte)),
    encode e.1 = [e.2] ∧ cyclesOf defaultConfig e.2 = 2) ∧
  ∀ s : State,
    (let v := BitVec.ofNat 8 (s.cpu.x.toNat + 1)
     exec .inx s = .next { s with
      cpu := { s.cpu with x := v, p := withNZ v s.cpu.p, pending := owed .inx 0 s } }) ∧
    (let v := BitVec.ofNat 8 (s.cpu.y.toNat + 1)
     exec .iny s = .next { s with
      cpu := { s.cpu with y := v, p := withNZ v s.cpu.p, pending := owed .iny 0 s } }) ∧
    (let v := BitVec.ofNat 8 (s.cpu.x.toNat + 255)
     exec .dex s = .next { s with
      cpu := { s.cpu with x := v, p := withNZ v s.cpu.p, pending := owed .dex 0 s } }) ∧
    (let v := BitVec.ofNat 8 (s.cpu.y.toNat + 255)
     exec .dey s = .next { s with
      cpu := { s.cpu with y := v, p := withNZ v s.cpu.p, pending := owed .dey 0 s } })

/-! ### Shifts and rotates -/

/-- ASL, LSR, ROL, ROR in the accumulator form and in every memory form (R190 to R194).
Rests on D11, D12. -/
def Obligations.ShiftsMoveOneBitThroughTheCarry : Prop :=
  ∀ (i : Instr) (s : State), i.mnemonic ∈ [.asl, .lsr, .rol, .ror] →
    (i.operand = .acc ∧
      let k := shiftResult i.mnemonic s.cpu.a (s.cpu.p.getLsbD 0)
      exec i s = .next { s with
        cpu := { s.cpu with a := k.1, p := withNZC k.1 k.2 s.cpu.p, pending := owed i 0 s } }) ∨
    ∃ m, i.operand = .mem m ∧
      let l := locate m s
      let r := cpuRead l.ea l.state
      let k := shiftResult i.mnemonic r.value (s.cpu.p.getLsbD 0)
      exec i s = .next { cpuWrite l.ea k.1 r.state with
        cpu := { s.cpu with p := withNZC k.1 k.2 s.cpu.p, pending := owed i 0 s } }

/-! ### Control transfer -/

/-- JMP in both modes (43_control_transfer.md R200).
Rests on D14. -/
def Obligations.JumpsLoadThePC : Prop :=
  ∀ (a : Addr) (s : State),
    exec (.jmpAbs a) s = .next { s with cpu := { s.cpu with pc := a, pending := owed (.jmpAbs a) 0 s } } ∧
    exec (.jmpInd a) s = .next { (indirect a s).state with
      cpu := { s.cpu with pc := (indirect a s).value, pending := owed (.jmpInd a) 0 s } }

/-- JSR (R201): with `PC` at the next instruction, the return address is one less; its high byte goes to the
free stack byte, its low byte to the one below, wrapping in the page.
Rests on D15, D34; the stack page of R16 (general knowledge). -/
def Obligations.JsrPushesTheReturnAddress : Prop :=
  ∀ (a : Addr) (s : State),
    let ret := s.cpu.pc.toNat + 65535
    let hi := BitVec.ofNat 8 (ret / 256)
    let lo := BitVec.ofNat 8 ret
    let second := BitVec.ofNat 8 (s.cpu.s.toNat + 255)
    exec (.jsr a) s = .next { s with
      ram := Memory.write (Memory.write s.ram (256 + s.cpu.s.toNat) hi) (256 + second.toNat) lo
      mainBus := writeLatch (BitVec.ofNat 16 (256 + second.toNat)) lo
      cpu := { s.cpu with s := second - 1, pc := a, pending := owed (.jsr a) 0 s } }

/-- RTS (R202): pops low, then high, adds one.
Rests on D15; the stack page of R16 (general knowledge). -/
def Obligations.RtsPopsTheReturnAddress : Prop :=
  ∀ s : State,
    let first := BitVec.ofNat 8 (s.cpu.s.toNat + 1)
    let second := BitVec.ofNat 8 (s.cpu.s.toNat + 2)
    let lo := Memory.read s.ram (256 + first.toNat)
    let hi := Memory.read s.ram (256 + second.toNat)
    exec .rts s = .next { s with
      mainBus := readLatch (BitVec.ofNat 16 (256 + second.toNat)) hi
      cpu := { s.cpu with
        s := second, pc := BitVec.ofNat 16 (256 * hi.toNat + lo.toNat + 1), pending := owed .rts 0 s } }

/-- A subroutine round trip (R201, R202, R203): RTS after JSR returns to the instruction after the JSR with
the stack pointer it had before, from every state, the stack pointer's wrap included.
Rests on D34; R203 (the spec's own inference). -/
def Obligations.RtsReturnsAfterTheJsr : Prop :=
  ∀ (a : Addr) (s : State), ∃ t u, exec (.jsr a) s = .next t ∧ t.cpu.pc = a ∧ exec .rts t = .next u ∧
    u.cpu.pc = s.cpu.pc ∧ u.cpu.s = s.cpu.s ∧ u.cpu.p = s.cpu.p

/-- The eight branches (R204 to R212): the displacement is signed and taken from the next instruction;
one more cycle if taken, a further one into another page.
Rests on the page penalty of R204 (general knowledge). -/
def Obligations.BranchesTestTheirFlag : Prop :=
  ∀ (i : Instr) (s : State), i.mnemonic ∈ [.bcc, .bcs, .beq, .bne, .bmi, .bpl, .bvc, .bvs] →
    ∃ d, i.operand = .rel d ∧
      let target := BitVec.ofInt 16 (s.cpu.pc.toNat + d.toInt)
      exec i s = .next
        (if branchCondition i.mnemonic s.cpu.p then
          { s with
            cpu := { s.cpu with
              pc := target
              pending := owed i (if target.toNat / 256 = s.cpu.pc.toNat / 256 then 1 else 2) s } }
        else { s with cpu := { s.cpu with pending := owed i 0 s } })

/-! ### Stack, flags, system -/

/-- PHA, PHP, PLA, PLP (44_stack_flags_system.md R220 to R223): the pushed status has bits 4 and 5 set, and
so has the pulled one (10_state.md R35).
Rests on D4, D15; the stack page of R16 (general knowledge). -/
def Obligations.PushesAndPulls : Prop :=
  ∀ s : State,
    let top := BitVec.ofNat 8 (s.cpu.s.toNat + 1)
    let popped := Memory.read s.ram (256 + top.toNat)
    let stackAt := BitVec.ofNat 16 (256 + s.cpu.s.toNat)
    exec .pha s = .next { s with
      ram := Memory.write s.ram (256 + s.cpu.s.toNat) s.cpu.a
      mainBus := writeLatch stackAt s.cpu.a
      cpu := { s.cpu with s := s.cpu.s - 1, pending := owed .pha 0 s } } ∧
    exec .php s = .next { s with
      ram := Memory.write s.ram (256 + s.cpu.s.toNat) (s.cpu.p ||| 0x30)
      mainBus := writeLatch stackAt (s.cpu.p ||| 0x30)
      cpu := { s.cpu with s := s.cpu.s - 1, pending := owed .php 0 s } } ∧
    exec .pla s = .next { s with
      mainBus := readLatch (BitVec.ofNat 16 (256 + top.toNat)) popped
      cpu := { s.cpu with
        a := popped, s := top, p := withNZ popped s.cpu.p, pending := owed .pla 0 s } } ∧
    exec .plp s = .next { s with
      mainBus := readLatch (BitVec.ofNat 16 (256 + top.toNat)) popped
      cpu := { s.cpu with s := top, p := popped ||| 0x30, pending := owed .plp 0 s } }

/-- The seven flag instructions and NOP (R224 to R231), each with its encoding and its cycles in the default
table; `PC` has been advanced by the fetch. -/
def Obligations.FlagInstructionsWriteOneFlag : Prop :=
  (∀ e ∈ ([(.clc, 0x18), (.sec, 0x38), (.cli, 0x58), (.sei, 0x78), (.clv, 0xB8), (.cld, 0xD8), (.sed, 0xF8),
      (.nop, 0xEA)] : List (Instr × Byte)), encode e.1 = [e.2] ∧ cyclesOf defaultConfig e.2 = 2) ∧
  ∀ s : State,
    let p := s.cpu.p
    let n := p.getLsbD 7
    let v := p.getLsbD 6
    let d := p.getLsbD 3
    let i := p.getLsbD 2
    let z := p.getLsbD 1
    let c := p.getLsbD 0
    exec .clc s = .next { s with cpu := { s.cpu with p := statusWord p n v d i z false, pending := owed .clc 0 s } } ∧
    exec .sec s = .next { s with cpu := { s.cpu with p := statusWord p n v d i z true, pending := owed .sec 0 s } } ∧
    exec .cli s = .next { s with cpu := { s.cpu with p := statusWord p n v d false z c, pending := owed .cli 0 s } } ∧
    exec .sei s = .next { s with cpu := { s.cpu with p := statusWord p n v d true z c, pending := owed .sei 0 s } } ∧
    exec .clv s = .next { s with cpu := { s.cpu with p := statusWord p n false d i z c, pending := owed .clv 0 s } } ∧
    exec .cld s = .next { s with cpu := { s.cpu with p := statusWord p n v false i z c, pending := owed .cld 0 s } } ∧
    exec .sed s = .next { s with cpu := { s.cpu with p := statusWord p n v true i z c, pending := owed .sed 0 s } } ∧
    exec .nop s = .next { s with cpu := { s.cpu with pending := owed .nop 0 s } }

/-- BRK (R232): with `PC` one past the opcode, the return address skips the padding byte; `I` is set after
the status word is pushed.
Rests on D20, D21, D34; R232 (general knowledge). -/
def Obligations.BrkEntersItsHandler : Prop :=
  ∀ s : State,
    let e := entered (BitVec.ofNat 16 (s.cpu.pc.toNat + 1)) 0xFFFE s
    exec .brk s = .next { e with
      cpu := { e.cpu with
        p := statusWord s.cpu.p (s.cpu.p.getLsbD 7) (s.cpu.p.getLsbD 6) (s.cpu.p.getLsbD 3) true
          (s.cpu.p.getLsbD 1) (s.cpu.p.getLsbD 0)
        pending := owed .brk 0 s } }

/-- RTI (R233): pops the status word, then the address, low byte first; no 1 is added.
Rests on D4. -/
def Obligations.RtiRestoresStatusAndPC : Prop :=
  ∀ s : State,
    let s1 := BitVec.ofNat 8 (s.cpu.s.toNat + 1)
    let s2 := BitVec.ofNat 8 (s.cpu.s.toNat + 2)
    let s3 := BitVec.ofNat 8 (s.cpu.s.toNat + 3)
    let lo := Memory.read s.ram (256 + s2.toNat)
    let hi := Memory.read s.ram (256 + s3.toNat)
    exec .rti s = .next { s with
      mainBus := readLatch (BitVec.ofNat 16 (256 + s3.toNat)) hi
      cpu := { s.cpu with
        p := Memory.read s.ram (256 + s1.toNat) ||| 0x30
        s := s3
        pc := BitVec.ofNat 16 (256 * hi.toNat + lo.toNat)
        pending := owed .rti 0 s } }

/-- `Nmi()` (60_exceptions.md R244, R245): ignored while halted; else the entry with the exact `PC`, no flag
changed, `NMI_CYCLES` added to `pending`.
Rests on D16, D17, D18, D21, D34; R245 (the spec's own inference). -/
def Obligations.NmiEntersItsHandler : Prop :=
  ∀ s : State,
    (s.cpu.halt = none →
      let e := entered s.cpu.pc 0xFFFA s
      nmi s = { e with cpu := { e.cpu with pending := s.cpu.pending + s.cfg.nmiCycles } }) ∧
    (s.cpu.halt ≠ none → nmi s = s)

/-- RTI undoes both entries (R251): after BRK it resumes past the padding byte, after `Nmi()` exactly where
the interrupt fell, with the status word and the stack pointer of before.
Rests on D17, D20, D21, D34; R232 (general knowledge). -/
def Obligations.RtiUndoesTheEntry : Prop :=
  ∀ s : State,
    (∃ t u, exec .brk s = .next t ∧ exec .rti t = .next u ∧
      u.cpu.pc = BitVec.ofNat 16 (s.cpu.pc.toNat + 1) ∧ u.cpu.p = s.cpu.p ||| 0x30 ∧ u.cpu.s = s.cpu.s) ∧
    (s.cpu.halt = none → ∃ u, exec .rti (nmi s) = .next u ∧
      u.cpu.pc = s.cpu.pc ∧ u.cpu.p = s.cpu.p ||| 0x30 ∧ u.cpu.s = s.cpu.s)

/-! ### Frames -/

/-- Which instructions change each register (10_state.md R30 to R32): `A`, `X`, `Y` only those the table of
R30 lists as writers, `S` only those that push, pop or are TXS, `PC` (already past the instruction) only
the control transfers; the halt record none, the parameters none.
Rests on the table of R30 (general knowledge). -/
def Obligations.RegistersChangeOnlyAsListed : Prop :=
  ∀ (i : Instr) (s t : State), exec i s = .next t →
    (i.mnemonic ∉ [.lda, .txa, .tya, .pla, .adc, .sbc, .and, .ora, .eor] →
      ¬ (i.operand = .acc) → t.cpu.a = s.cpu.a) ∧
    (i.mnemonic ∉ [.ldx, .tax, .tsx, .inx, .dex] → t.cpu.x = s.cpu.x) ∧
    (i.mnemonic ∉ [.ldy, .tay, .iny, .dey] → t.cpu.y = s.cpu.y) ∧
    (i.mnemonic ∉ [.pha, .php, .pla, .plp, .jsr, .rts, .brk, .rti, .txs] → t.cpu.s = s.cpu.s) ∧
    (i.mnemonic ∉ [.jmp, .jsr, .rts, .brk, .rti, .bcc, .bcs, .beq, .bne, .bmi, .bpl, .bvc, .bvs] →
      t.cpu.pc = s.cpu.pc) ∧
    t.cpu.halt = s.cpu.halt ∧ t.cfg = s.cfg

/-- Which instructions change each flag (10_state.md R34, R35): only those its table lists; PLP and RTI
write them all; bits 4 and 5 stay as they are or become 1.
Rests on D4; the table of R34 (general knowledge). -/
def Obligations.FlagsChangeOnlyAsListed : Prop :=
  ∀ (i : Instr) (s t : State), exec i s = .next t → i.mnemonic ∉ [.plp, .rti] →
    (i.mnemonic ∉ [.adc, .sbc, .cmp, .cpx, .cpy, .asl, .lsr, .rol, .ror, .clc, .sec] →
      t.cpu.p.getLsbD 0 = s.cpu.p.getLsbD 0) ∧
    (i.mnemonic ∉ [.lda, .ldx, .ldy, .tax, .tay, .txa, .tya, .tsx, .pla, .adc, .sbc, .and, .ora, .eor,
        .cmp, .cpx, .cpy, .bit, .inc, .dec, .inx, .iny, .dex, .dey, .asl, .lsr, .rol, .ror] →
      t.cpu.p.getLsbD 1 = s.cpu.p.getLsbD 1 ∧ t.cpu.p.getLsbD 7 = s.cpu.p.getLsbD 7) ∧
    (i.mnemonic ∉ [.brk, .sei, .cli] → t.cpu.p.getLsbD 2 = s.cpu.p.getLsbD 2) ∧
    (i.mnemonic ∉ [.sed, .cld] → t.cpu.p.getLsbD 3 = s.cpu.p.getLsbD 3) ∧
    (i.mnemonic ∉ [.adc, .sbc, .bit, .clv] → t.cpu.p.getLsbD 6 = s.cpu.p.getLsbD 6) ∧
    t.cpu.p.getLsbD 4 = s.cpu.p.getLsbD 4 ∧ t.cpu.p.getLsbD 5 = s.cpu.p.getLsbD 5

/-- A form that neither stores to its operand nor pushes leaves every byte of every array, the DMA session,
the reports and all of the Picture Unit but the side effects of a read as they were (20_memory.md R100,
R111).
Rests on D11; R111 (the spec's own inference). -/
def Obligations.NonStoringFormsLeaveMemory : Prop :=
  ∀ (i : Instr) (s t : State), storesOperand i = false → pushes i = false → exec i s = .next t →
    (∀ k, Memory.read t.ram k = Memory.read s.ram k ∧ Memory.read t.vram k = Memory.read s.vram k ∧
      Memory.read t.ppu.oam k = Memory.read s.ppu.oam k ∧ Memory.read t.cfg.prg k = Memory.read s.cfg.prg k ∧
      Memory.read t.cfg.chr k = Memory.read s.cfg.chr k) ∧
    t.dma = s.dma ∧ t.reports = s.reports ∧
    t.ppu = { s.ppu with status := t.ppu.status, w := t.ppu.w, v := t.ppu.v }

/-- A form that stores to its operand changes no byte but those its effective address selects (20_memory.md
R85, R86, 30_encoding.md R134): the RAM cell if RAM is in range; the OAM or picture RAM byte if the
register window is in range and the register is 4 or 7. Nothing else stores; the DMA session changes only
through 0x4014, a report is made only in the internal-register block, and outside the window the Picture
Unit is untouched.
Rests on D11; R85 and R86 (the spec's own inference). -/
def Obligations.StoringFormsChangeOnlyTheAddressedByte : Prop :=
  ∀ (i : Instr) (m : MemMode) (s t : State), storesOperand i = true → i.operand = .mem m →
    exec i s = .next t →
    let ea := (locate m s).ea
    let b := beforeStore i m s
    let window := ea.getLsbD 13
    (∀ k, ¬ ((ea.toNat % 0x2000 ≠ 0 ∨ ea = 0) ∧ k = ea.toNat % 2048) →
      Memory.read t.ram k = Memory.read s.ram k) ∧
    (∀ k, ¬ (window = true ∧ ea.toNat % 8 = 4 ∧ k = b.ppu.oamaddr.toNat) →
      Memory.read t.ppu.oam k = Memory.read s.ppu.oam k) ∧
    (∀ k, ¬ (window = true ∧ ea.toNat % 8 = 7 ∧ 0x2000 ≤ b.ppu.v.toNat ∧ k = b.ppu.v.toNat % 2048) →
      Memory.read t.vram k = Memory.read s.vram k) ∧
    (∀ k, Memory.read t.cfg.prg k = Memory.read s.cfg.prg k ∧ Memory.read t.cfg.chr k = Memory.read s.cfg.chr k) ∧
    (ea ≠ 0x4014 → t.dma = s.dma) ∧
    ((ea.toNat < 0x4000 ∨ 0x401F < ea.toNat ∨ ea = 0x4014) → t.reports = s.reports) ∧
    (window = false → t.ppu = s.ppu)

/-- PHA, PHP, JSR, BRK change no byte but the stack bytes they push to, and nothing outside the processor,
RAM and the main-bus latches (00_scope.md R16, 20_memory.md R111).
Rests on D15; the stack page of R16 (general knowledge); R111 (the spec's own inference). -/
def Obligations.PushingFormsChangeOnlyTheStackBytes : Prop :=
  ∀ (i : Instr) (s t : State), pushes i = true → exec i s = .next t →
    let n := if i.mnemonic = .brk then 3 else if i.mnemonic = .jsr then 2 else 1
    (∀ k, (∀ j, j < n → k ≠ 256 + (s.cpu.s - BitVec.ofNat 8 j).toNat) →
      Memory.read t.ram k = Memory.read s.ram k) ∧
    t = { s with ram := t.ram, cpu := t.cpu, mainBus := t.mainBus }

/-! ### The cycles -/

/-- The step runs the decoded instruction (30_encoding.md R140): when the processor is about to fetch and
the bytes at `PC` decode to `i`, the step is `exec i` on the machine after those fetches, followed by the
three dots; the fetches leave `PC` at the next instruction. -/
def Obligations.StepRunsTheDecodedInstruction : Prop :=
  ∀ (s : State) (n : Nat) (i : Instr),
    s.dma = none → s.cpu.halt = none → s.cpu.pending = 0 →
    decode (fetchBytes n s).bytes = .ok i [] →
      step s = onNext threeDots (exec i (fetchBytes n s).state) ∧
      (fetchBytes n s).state.cpu = { s.cpu with pc := s.cpu.pc + BitVec.ofNat 16 n }

/-- An unmapped opcode halts (60_exceptions.md R240, 30_encoding.md R135): nothing but `PC` and the halt
state changes beyond the fetch itself; nothing is pushed, no vector is read.
Rests on D1, D37. -/
def Obligations.UnmappedOpcodeHalts : Prop :=
  ∀ s : State, s.cpu.halt = none → s.cpu.pending = 0 →
    let f := cpuRead s.cpu.pc s
    decodeOpcode f.value = none →
      cpuCycle s = .next { f.state with
        cpu := { s.cpu with pc := s.cpu.pc + 1, halt := some { addr := s.cpu.pc, op := f.value } } }

/-- Halted behaviour (R241): the processor's cycle is a no-op and `Nmi()` is ignored; the system cycle still
steps an active DMA session and the three dots; no step changes the processor, so only `reset()` clears
the halt. -/
def Obligations.HaltIsPermanent : Prop :=
  ∀ s : State, s.cpu.halt ≠ none →
    cpuCycle s = .next s ∧ nmi s = s ∧
    (∀ d, s.dma = some d → step s = .next (threeDots (dmaCycle d s))) ∧
    (s.dma = none → step s = .next (threeDots s)) ∧
    (∃ t, step s = .next t ∧ t.cpu = s.cpu) ∧
    (hostReset s).cpu.halt = none

/-- The system cycle (R280, R274): a DMA cycle if a session is active at its start, the processor then not
clocked at all; else a processor cycle, which only decrements `pending` while that is not zero
(30_encoding.md R140); three dots in either case.
Rests on D29. -/
def Obligations.SystemCycleOrder : Prop :=
  ∀ s : State,
    (∀ d, s.dma = some d → step s = .next (ppuDot (ppuDot (ppuDot (dmaCycle d s))))) ∧
    (s.dma = none → step s = onNext (fun t => ppuDot (ppuDot (ppuDot t))) (cpuCycle s)) ∧
    (s.dma = none → s.cpu.halt = none → 0 < s.cpu.pending →
      step s = .next
        (ppuDot (ppuDot (ppuDot { s with cpu := { s.cpu with pending := s.cpu.pending - 1 } }))))

/-- Every step answers a next state, and none changes the parameters (60_exceptions.md R242, 10_state.md
R64). -/
def Obligations.EveryStepCompletes : Prop :=
  ∀ s : State, ∃ t, step s = .next t ∧ t.cfg = s.cfg

/-! ### DMA -/

/-- `DmaCycle()` (R272, R273): a fetch cycle reads `sourceBase + cursor` into the latch; a store cycle
writes the latch at the destination by a plain bus write and advances the cursor, ending the session when
it reaches the length. -/
def Obligations.DmaCycleAlternates : Prop :=
  ∀ (d : DmaSession) (s : State),
    (d.phase = .fetch →
      let r := busRead (BitVec.ofNat 16 (d.sourceBase.toNat + d.cursor)) s
      dmaCycle d s = { r.state with dma := some { d with latch := r.value, phase := .store } }) ∧
    (d.phase = .store →
      dmaCycle d s = { busWrite d.destination d.latch s with
        dma := if d.cursor + 1 = d.length then none
          else some { d with cursor := d.cursor + 1, phase := .fetch } })

/-- A session armed from any page takes exactly 512 driven cycles (R273): byte `k` of the page, as its
fetch cycle reads it, lands in `OAM[(oamaddr0 + k) & 0xFF]`, for every `k`, and `oamaddr` ends where it
began.
Rests on D29, D33; the OAM index of R273 (the spec's own inference). -/
def Obligations.DmaCopiesTheWholePage : Prop :=
  ∀ (b : Byte) (s : State),
    let s0 := dmaBegin b s
    (∀ j, j < 512 → (driveDma j s0).dma ≠ none) ∧
    (driveDma 512 s0).dma = none ∧
    (driveDma 512 s0).ppu.oamaddr = s.ppu.oamaddr ∧
    ∀ k, k < 256 →
      Memory.read (driveDma 512 s0).ppu.oam ((s.ppu.oamaddr.toNat + k) % 256) =
        (busRead (BitVec.ofNat 16 (256 * b.toNat + k)) (driveDma (2 * k) s0)).value

/-- From a program ROM page, 0x80 on, the bytes copied are the ROM's own (R266, R271 to R273, 20_memory.md R82,
R84).
Rests on D8, D29, D33; the OAM index of R273 and the map R84 (the spec's own inference). -/
def Obligations.DmaFromRomCopiesTheRom : Prop :=
  ∀ (b : Byte) (s : State), 0x80 ≤ b.toNat →
    ∀ k, k < 256 →
      Memory.read (driveDma 512 (dmaBegin b s)).ppu.oam ((s.ppu.oamaddr.toNat + k) % 256) =
        Memory.read s.cfg.prg ((256 * b.toNat + k) % s.cfg.prgSize.bytes)

/-! ### Picture Unit -/

/-- `ProducePixel(x, y)` in the visible raster (R257): the nametable byte, the two plane bytes, the
palette entry, one pixel of the frame buffer; nothing else but the picture-bus latches.
Rests on D26; the addresses and layout of R257 (general knowledge). -/
def Obligations.PixelProduction : Prop :=
  ∀ (x y : Nat) (s : State), x < 256 → y < 240 →
    let tile := (Memory.read s.vram (32 * (y / 8) + x / 8)).toNat
    let base := if s.ppu.ctrl.getLsbD 4 then 4096 else 0
    let p0 := Memory.read s.cfg.chr (base + 16 * tile + y % 8)
    let p1 := Memory.read s.cfg.chr (base + 16 * tile + 8 + y % 8)
    let bit := 7 - x % 8
    let colour := paletteOf s.cfg (BitVec.ofNat 2 (2 * (p1.getLsbD bit).toNat + (p0.getLsbD bit).toNat))
    let t := producePixel x y s
    t.pixel x y = colour ∧
    (∀ x' y', x' < 256 → (x' ≠ x ∨ y' ≠ y) → t.pixel x' y' = s.pixel x' y') ∧
    t = { s with picBus := t.picBus, ppu := { s.ppu with fb := t.ppu.fb } }

/-- `PpuDot()` (R256): a pixel, from the counters before they advance, only inside the visible raster with
rendering on; then the counters, wrapping at 341 and 262; the frame wrap in the last dot only.
Rests on D26, D28. -/
def Obligations.DotAdvancesTheCounters : Prop :=
  ∀ s : State, s.ppu.dot ≤ 340 → s.ppu.scanline ≤ 261 →
    let q :=
      if s.ppu.mask.getLsbD 3 = true ∧ s.ppu.scanline < 240 ∧ s.ppu.dot < 256 then
        producePixel s.ppu.dot s.ppu.scanline s
      else s
    (s.ppu.dot < 340 → ppuDot s = { q with ppu := { q.ppu with dot := s.ppu.dot + 1 } }) ∧
    (s.ppu.dot = 340 → s.ppu.scanline < 261 →
      ppuDot s = { q with ppu := { q.ppu with dot := 0, scanline := s.ppu.scanline + 1 } }) ∧
    (s.ppu.dot = 340 → s.ppu.scanline = 261 →
      ppuDot s = frameWrap { s with ppu := { s.ppu with dot := 0, scanline := 0 } })

/-- `FrameWrap()` (R258): the bit, the frame counter, the signal; then `Nmi()` iff the control register's
bit 7 is set.
Rests on D28. -/
def Obligations.FrameWrapRaisesTheInterrupt : Prop :=
  ∀ s : State,
    let q := { s with
      ppu := { s.ppu with
        status := s.ppu.status ||| 0x80, frame := s.ppu.frame + 1, frameReady := true } }
    (s.ppu.ctrl.getLsbD 7 = true → frameWrap s = nmi q) ∧
    (s.ppu.ctrl.getLsbD 7 = false → frameWrap s = q)

/-- Frame timing (R258): driving 341 * 262 dots from anywhere in the frame brings the counters back, and in
them the frame counter rises exactly once, in the dot that ends scanline 261; exactly one interrupt entry
(three bytes pushed, `NMI_CYCLES` added) occurs at that edge iff it is enabled and the processor runs; no
other dot touches the processor.
Rests on D16, D17, D28. -/
def Obligations.FrameTiming : Prop :=
  ∀ (s : State) (j : Nat), s.ppu.dot ≤ 340 → s.ppu.scanline ≤ 261 → j ≤ 341 * 262 →
    let t := driveDots j s
    let e := entered s.cpu.pc 0xFFFA s
    let entry := s.ppu.ctrl.getLsbD 7 = true ∧ s.cpu.halt = none
    dotsDone t = (dotsDone s + j) % (341 * 262) ∧ t.ppu.dot ≤ 340 ∧ t.ppu.scanline ≤ 261 ∧
    (dotsDone s + j < 341 * 262 →
      t.ppu.frame = s.ppu.frame ∧ t.ppu.status = s.ppu.status ∧ t.cpu = s.cpu ∧ t.ram = s.ram) ∧
    (341 * 262 ≤ dotsDone s + j →
      t.ppu.frame = s.ppu.frame + 1 ∧ t.ppu.status = s.ppu.status ||| 0x80 ∧ t.ppu.frameReady = true ∧
      (entry → t.cpu = { e.cpu with pending := s.cpu.pending + s.cfg.nmiCycles } ∧ t.ram = e.ram) ∧
      (¬ entry → t.cpu = s.cpu ∧ t.ram = s.ram))

/-- `renderFrame()` terminates within its 29781 system cycles from every state whose counters are in
range, clears the signal, and, if it was not already up, has completed exactly one frame with the counters
in the first three dots (R281).
Rests on the bound of R281 (the spec's own inference); log 13. -/
def Obligations.RenderFrameCompletes : Prop :=
  ∀ s : State, s.ppu.dot ≤ 340 → s.ppu.scanline ≤ 261 →
    ∃ t, renderFrame s = .next t ∧ t.ppu.frameReady = false ∧
      (s.ppu.frameReady = false →
        t.ppu.frame = s.ppu.frame + 1 ∧ t.ppu.scanline = 0 ∧ t.ppu.dot ≤ 2)

/-! ### Reset and the invariant -/

/-- `reset()` (70_reset_and_hazards.md R301 to R303): the processor's registers, `pending` and the halt;
nothing else but the main-bus latches, which the two reads of the vector leave (10_state.md R63).
Rests on D15, D21, D31; the vector address of R303 (general knowledge). -/
def Obligations.ResetDefinesTheProcessor : Prop :=
  ∀ s : State,
    let lo := Memory.read s.cfg.prg (0xFFFC % s.cfg.prgSize.bytes)
    let hi := Memory.read s.cfg.prg (0xFFFD % s.cfg.prgSize.bytes)
    hostReset s = { s with
      mainBus := readLatch 0xFFFD hi
      cpu :=
        { a := 0x00, x := 0x00, y := 0x00, s := 0xFF, p := 0x34,
          pc := BitVec.ofNat 16 (256 * hi.toNat + lo.toNat), pending := 0, halt := none } }

/-- The model's state after reset is power-on followed by one `reset()` (R306), with the empty cartridge,
the free floating byte, zeroed memories, and the default parameters the model chose (log 1, 2, 4, 5, 9).
Rests on D30, log 1, 2, 4, 5, 9. -/
def Obligations.LaunchStateIsPowerOnThenReset : Prop :=
  State.reset = hostReset (powerOn defaultConfig [] [] [])

/-- The invariant holds of `State.reset`, whose cartridge, memories and tables are the model's own choice: the
empty 32 KiB cartridge, zeroed memories, free floating bytes and the spec's default tables (log 1, 2, 4, 9).
Rests on D4, D8, D12, D30; R323 (the spec's own inference); log 1, 2, 4, 9. -/
def Obligations.InvariantHoldsAtReset : Prop := Invariant State.reset

/-- Every step, from every state that meets the invariant, keeps it: a well-formed configuration (00_scope.md
R10, 70_reset_and_hazards.md R323), canonical arrays of their sizes, bits 4 and 5 of `P` set,
bits 6 to 0 of status clear, the counters in range, a legal DMA session, a halted processor owing nothing
(10_state.md R35, R42, R45, R46, R50, R57, R58, R60).
Rests on D4; R323 (the spec's own inference). -/
def Obligations.EveryStepKeepsTheInvariant : Prop :=
  ∀ s t : State, Invariant s → step s = .next t → Invariant t
end

