-- ==== Sys2Proof/Laws/Bits.lean ====
section
/-! SUPPORT. Bits, ranges and byte halves of addresses; the status word bit by bit; the adder as arithmetic. -/

namespace Sys2Proof.Machine

/-! ### Masks as ranges -/

theorem bit_iff {w : Nat} (a : BitVec w) (k : Nat) : a.getLsbD k = true ↔ a.toNat / 2 ^ k % 2 = 1 := by
  rw [← BitVec.testBit_toNat, Nat.testBit_eq_decide_div_mod_eq, decide_eq_true_eq]

theorem bit13_iff {w : Nat} (a : BitVec w) : a.getLsbD 13 = true ↔ a.toNat / 8192 % 2 = 1 := bit_iff a 13

theorem bit15_iff {w : Nat} (a : BitVec w) : a.getLsbD 15 = true ↔ a.toNat / 32768 % 2 = 1 := bit_iff a 15

theorem and_bit_ne_zero {w : Nat} (a : BitVec w) (k : Nat) (h : k < w) :
    (a &&& BitVec.twoPow w k != 0) = a.getLsbD k := by
  rw [BitVec.and_twoPow]
  cases a.getLsbD k with
  | false => simp
  | true =>
    have : BitVec.twoPow w k ≠ 0 := fun e => by
      have := congrArg (fun v : BitVec w => v.getLsbD k) e
      simp [h] at this
    simpa using this

theorem and_low_ne_zero {w : Nat} (a m : BitVec w) (k : Nat) (h : m.toNat = 2 ^ k - 1) :
    (a &&& m != 0) = decide (a.toNat % 2 ^ k ≠ 0) := by
  rw [← Nat.and_two_pow_sub_one_eq_mod, ← h, ← BitVec.toNat_and]
  have : (a &&& m = 0) ↔ (a &&& m).toNat = 0 := by
    rw [← BitVec.toNat_inj]
    simp
  by_cases hz : a &&& m = 0
  · simp [hz]
  · have := mt this.2 hz
    simp only [bne_iff_ne.2 hz, ne_eq, this, not_false_eq_true, decide_true]

theorem ramIndex_eq (a : Addr) : ramIndex a = a.toNat % 2048 := Nat.and_two_pow_sub_one_eq_mod _ 11

theorem vramIndex_eq (a : PicAddr) : vramIndex a = a.toNat % 2048 := Nat.and_two_pow_sub_one_eq_mod _ 11

theorem chrIndex_eq (a : PicAddr) : chrIndex a = a.toNat % 8192 := Nat.and_two_pow_sub_one_eq_mod _ 13

theorem prgIndex_eq (cfg : Config) (a : Addr) : prgIndex cfg a = a.toNat % cfg.prgSize.bytes := by
  cases h : cfg.prgSize
  · simpa [prgIndex, h, PrgSize.bytes] using Nat.and_two_pow_sub_one_eq_mod a.toNat 14
  · simpa [prgIndex, h, PrgSize.bytes] using Nat.and_two_pow_sub_one_eq_mod a.toNat 15

theorem prgSize_pos (p : PrgSize) : 0 < p.bytes := by cases p <;> decide

theorem isInternal_iff (a : Addr) : isInternal a = true ↔ 0x4000 ≤ a.toNat ∧ a.toNat ≤ 0x401F := by
  have e : a &&& 0xFFE0#16 = a >>> 5 <<< 5 := by
    apply BitVec.eq_of_getLsbD_eq
    intro i hi
    have m : ∀ i, i < 16 → (0xFFE0#16).getLsbD i = !decide (i < 5) := by decide
    rw [BitVec.getLsbD_and, m i hi, BitVec.getLsbD_shiftLeft, BitVec.getLsbD_ushiftRight]
    by_cases h5 : i < 5
    · simp only [h5, decide_true, Bool.not_true, Bool.and_false, Bool.false_and]
    · simp only [hi, h5, decide_false, decide_true, Bool.not_false, Bool.and_true, Bool.true_and,
        show 5 + (i - 5) = i by omega]
  have h : (a &&& 0xFFE0#16).toNat = a.toNat / 32 * 32 := by
    rw [e, BitVec.toNat_shiftLeft, BitVec.toNat_ushiftRight, Nat.shiftLeft_eq, Nat.shiftRight_eq_div_pow,
      Nat.mod_eq_of_lt (by have := a.isLt; omega)]
  rw [isInternal, beq_iff_eq, ← BitVec.toNat_inj]
  show (a &&& 0xFFE0#16).toNat = 0x4000 ↔ _
  omega

/-! ### Byte halves -/

theorem toNat_loByte (a : Addr) : (loByte a).toNat = a.toNat % 256 := by simp [loByte]

theorem toNat_hiByte (a : Addr) : (hiByte a).toNat = a.toNat / 256 := by
  have := a.isLt
  rw [hiByte, BitVec.extractLsb'_toNat, Nat.shiftRight_eq_div_pow]
  omega

theorem toNat_zext16 (b : Byte) : (zext16 b).toNat = b.toNat := by
  have := b.isLt
  simp only [zext16, BitVec.truncate_eq_setWidth, BitVec.toNat_setWidth]
  omega

theorem toNat_wordOf (lo hi : Byte) : (wordOf lo hi).toNat = 256 * hi.toNat + lo.toNat := by
  have := lo.isLt
  rw [wordOf, BitVec.toNat_append, Nat.shiftLeft_eq, Nat.mul_comm]
  exact (Nat.two_pow_add_eq_or_of_lt (i := 8) this hi.toNat).symm

theorem wordOf_eq (lo hi : Byte) : wordOf lo hi = BitVec.ofNat 16 (256 * hi.toNat + lo.toNat) := by
  rw [← toNat_wordOf, BitVec.ofNat_toNat, BitVec.setWidth_eq]

theorem zext16_eq (b : Byte) : zext16 b = BitVec.ofNat 16 b.toNat := by
  rw [← toNat_zext16, BitVec.ofNat_toNat, BitVec.setWidth_eq]

theorem toNat_stackAddr (s : Byte) : (stackAddr s).toNat = 256 + s.toNat := by
  have e : stackAddr s = wordOf s 1 := by
    apply BitVec.eq_of_getLsbD_eq
    intro i hi
    simp only [stackAddr, zext16, wordOf, BitVec.getLsbD_or, BitVec.truncate_eq_setWidth,
      BitVec.getLsbD_setWidth, BitVec.getLsbD_append, hi, decide_true, Bool.true_and]
    by_cases h : i < 8
    · have : (0x0100#16).getLsbD i = false := by
        revert i
        decide
      simp [h, this]
    · have hs : s.getLsbD i = false := BitVec.getLsbD_of_ge s i (by omega)
      have : ∀ i, i < 16 → ¬ i < 8 → (0x0100#16).getLsbD i = (1#8).getLsbD (i - 8) := by decide
      simp [h, hs, this i hi h]
  rw [e, toNat_wordOf]
  rfl

theorem stackAddr_eq (s : Byte) : stackAddr s = BitVec.ofNat 16 (256 + s.toNat) := by
  rw [← toNat_stackAddr, BitVec.ofNat_toNat, BitVec.setWidth_eq]

theorem pageDiffers_eq (a b : Addr) : pageDiffers a b = decide (a.toNat / 256 ≠ b.toNat / 256) := by
  have : hiByte a = hiByte b ↔ a.toNat / 256 = b.toNat / 256 := by
    rw [← BitVec.toNat_inj, toNat_hiByte, toNat_hiByte]
  by_cases h : hiByte a = hiByte b
  · simp [pageDiffers, h, this.1 h]
  · simp [pageDiffers, h, mt this.2 h]

/-! ### The status word -/

theorem byte_ext {x y : Byte} (h0 : x.getLsbD 0 = y.getLsbD 0) (h1 : x.getLsbD 1 = y.getLsbD 1)
    (h2 : x.getLsbD 2 = y.getLsbD 2) (h3 : x.getLsbD 3 = y.getLsbD 3) (h4 : x.getLsbD 4 = y.getLsbD 4)
    (h5 : x.getLsbD 5 = y.getLsbD 5) (h6 : x.getLsbD 6 = y.getLsbD 6) (h7 : x.getLsbD 7 = y.getLsbD 7) :
    x = y := by
  apply BitVec.eq_of_getLsbD_eq
  intro i hi
  interval_cases i <;> assumption

theorem getLsbD_one_shiftLeft (n k : Nat) (hk : k < 8) : (1#8 <<< n).getLsbD k = decide (k = n) := by
  rw [BitVec.getLsbD_shiftLeft, BitVec.getLsbD_one, Bool.eq_iff_iff]
  simp only [hk, decide_true, Bool.true_and, Bool.and_eq_true, Bool.not_eq_true', decide_eq_false_iff_not,
    decide_eq_true_eq]
  omega

theorem getLsbD_putBit (n : Nat) (b : Bool) (v : Byte) (k : Nat) (hk : k < 8) :
    (putBit n b v).getLsbD k = if k = n then b else v.getLsbD k := by
  have one := getLsbD_one_shiftLeft n k hk
  cases b
  · rw [putBit, if_neg Bool.false_ne_true, BitVec.getLsbD_and, BitVec.getLsbD_not, one]
    by_cases h : k = n <;>
      simp only [h, if_true, if_false, hk, decide_true, decide_false, Bool.not_true, Bool.not_false,
        Bool.and_false, Bool.and_true]
  · rw [putBit, if_pos rfl, BitVec.getLsbD_or, one]
    by_cases h : k = n <;>
      simp only [h, if_true, if_false, decide_true, decide_false, Bool.or_true, Bool.or_false]

theorem getLsbD_statusWord (p : Byte) (n v d i z c : Bool) :
    (statusWord p n v d i z c).getLsbD 0 = c ∧ (statusWord p n v d i z c).getLsbD 1 = z ∧
    (statusWord p n v d i z c).getLsbD 2 = i ∧ (statusWord p n v d i z c).getLsbD 3 = d ∧
    (statusWord p n v d i z c).getLsbD 4 = p.getLsbD 4 ∧ (statusWord p n v d i z c).getLsbD 5 = p.getLsbD 5 ∧
    (statusWord p n v d i z c).getLsbD 6 = v ∧ (statusWord p n v d i z c).getLsbD 7 = n := by
  refine ⟨?_, ?_, ?_, ?_, ?_, ?_, ?_, ?_⟩ <;>
    simp only [statusWord, BitVec.getLsbD_append, BitVec.getLsbD_extractLsb', BitVec.getLsbD_ofBool] <;> simp

/-- A status word is equal to one written out when each flag is. -/
theorem eq_statusWord {q p : Byte} {n v d i z c : Bool} (h0 : q.getLsbD 0 = c) (h1 : q.getLsbD 1 = z)
    (h2 : q.getLsbD 2 = i) (h3 : q.getLsbD 3 = d) (h4 : q.getLsbD 4 = p.getLsbD 4)
    (h5 : q.getLsbD 5 = p.getLsbD 5) (h6 : q.getLsbD 6 = v) (h7 : q.getLsbD 7 = n) :
    q = statusWord p n v d i z c := by
  have ⟨e0, e1, e2, e3, e4, e5, e6, e7⟩ := getLsbD_statusWord p n v d i z c
  exact byte_ext (h0.trans e0.symm) (h1.trans e1.symm) (h2.trans e2.symm) (h3.trans e3.symm)
    (h4.trans e4.symm) (h5.trans e5.symm) (h6.trans e6.symm) (h7.trans e7.symm)

theorem msb_eq (v : Byte) : v.msb = v.getLsbD 7 := by simp [BitVec.msb_eq_getLsbD_last]

theorem setNZ_eq (v : Byte) (c : Cpu) : c.setNZ v = { c with p := withNZ v c.p } := by
  have : putBit 7 v.msb (putBit 1 (v == 0) c.p) = withNZ v c.p := by
    apply eq_statusWord <;>
      simp only [getLsbD_putBit, msb_eq, Nat.reduceLT, Nat.reduceEqDiff, if_true, if_false,
        OfNat.zero_ne_ofNat, OfNat.one_ne_ofNat, OfNat.ofNat_ne_one, zero_ne_one]
  rw [← this]
  rfl

theorem withNZ_putC (v : Byte) (b : Bool) (p : Byte) : withNZ v (putBit 0 b p) = withNZC v b p := by
  apply eq_statusWord <;>
    simp only [withNZ, getLsbD_statusWord, getLsbD_putBit, Nat.reduceLT, OfNat.ofNat_ne_zero, if_true, if_false]

theorem withNZ_putCV (v : Byte) (b o : Bool) (p : Byte) :
    withNZ v (putBit 6 o (putBit 0 b p)) = withNZCV v b o p := by
  apply eq_statusWord <;>
    simp only [withNZ, getLsbD_statusWord, getLsbD_putBit, Nat.reduceLT, Nat.reduceEqDiff,
      OfNat.ofNat_ne_zero, if_true, if_false, OfNat.zero_ne_ofNat]

theorem and_0x30 (p : Byte) : p &&& 0x30 = 0x30 ↔ p.getLsbD 4 = true ∧ p.getLsbD 5 = true := by
  constructor
  · intro h
    have h4 := congrArg (fun v : Byte => v.getLsbD 4) h
    have h5 := congrArg (fun v : Byte => v.getLsbD 5) h
    simp only [BitVec.getLsbD_and] at h4 h5
    exact ⟨by simpa using h4, by simpa using h5⟩
  · rintro ⟨h4, h5⟩
    apply byte_ext <;> simp [h4, h5]

/-! ### The adder -/

theorem add8_r (a b : Byte) (c : Bool) : (add8 a b c).r = BitVec.ofNat 8 (a.toNat + b.toNat + c.toNat) := by
  have ha := a.isLt
  have hb := b.isLt
  have hc : c.toNat ≤ 1 := Bool.toNat_le c
  apply BitVec.eq_of_toNat_eq
  simp only [add8, BitVec.extractLsb'_toNat, BitVec.toNat_add, BitVec.truncate_eq_setWidth,
    BitVec.toNat_setWidth, BitVec.toNat_ofBool, BitVec.toNat_ofNat, Nat.shiftRight_zero]
  omega

theorem add8_cout (a b : Byte) (c : Bool) :
    (add8 a b c).cout = decide (256 ≤ a.toNat + b.toNat + c.toNat) := by
  have ha := a.isLt
  have hb := b.isLt
  have hc : c.toNat ≤ 1 := Bool.toNat_le c
  rw [Bool.eq_iff_iff, decide_eq_true_eq]
  simp only [add8]
  rw [bit_iff]
  simp only [BitVec.toNat_add, BitVec.truncate_eq_setWidth,
    BitVec.toNat_setWidth, BitVec.toNat_ofBool]
  omega

/-- The overflow of the adder is that of the signed sum. -/
theorem add8_ovf (a b : Byte) (c : Bool) :
    (add8 a b c).ovf = decide (a.toInt + b.toInt + c.toNat < -128 ∨ 127 < a.toInt + b.toInt + c.toNat) := by
  have ha := a.isLt
  have hb := b.isLt
  have hc : c.toNat ≤ 1 := Bool.toNat_le c
  have hr := congrArg BitVec.toNat (add8_r a b c)
  rw [BitVec.toNat_ofNat] at hr
  have ho : (add8 a b c).ovf = ((a.msb == b.msb) && ((add8 a b c).r.msb != a.msb)) := rfl
  rw [ho, BitVec.toInt_eq_toNat_cond, BitVec.toInt_eq_toNat_cond, BitVec.msb_eq_decide, BitVec.msb_eq_decide,
    BitVec.msb_eq_decide, hr]
  rw [Bool.eq_iff_iff]
  simp only [Bool.and_eq_true, beq_iff_eq, bne_iff_ne, ne_eq, decide_eq_decide, decide_eq_true_eq]
  split <;> split <;> omega

theorem toNat_complement (b : Byte) : (b ^^^ 0xFF).toNat = 255 - b.toNat := by
  have : b ^^^ 0xFF = ~~~b := BitVec.xor_allOnes
  rw [this, BitVec.toNat_not]

theorem toInt_complement (b : Byte) : (b ^^^ 0xFF).toInt = -1 - b.toInt := by
  have h := toNat_complement b
  have := b.isLt
  rw [BitVec.toInt_eq_toNat_cond, BitVec.toInt_eq_toNat_cond, h]
  split <;> split <;> omega

end Sys2Proof.Machine
end

