-- ==== Sys2Proof/Laws/Memory.lean ====
section
/-! SUPPORT. The laws of the sparse arrays: a read after a write, the canonical form, arrays from byte lists. -/

namespace Sys2Proof

namespace Sparse

variable {α : Type}

theorem lookup_erase_same (k : Nat) (m : List (Nat × α)) : lookup k (erase k m) = none := by
  induction m with
  | nil => rfl
  | cons c m ih => by_cases h : c.1 = k <;> simp [erase, lookup, h, ih]

theorem lookup_erase_other {j k : Nat} (h : j ≠ k) (m : List (Nat × α)) :
    lookup j (erase k m) = lookup j m := by
  induction m with
  | nil => rfl
  | cons c m ih =>
    by_cases hk : c.1 = k
    · have : c.1 ≠ j := fun hj => h (hj.symm.trans hk)
      simp [erase, lookup, hk, ih, Ne.symm h]
    · rw [erase, if_neg hk, lookup, lookup, ih]

theorem lookup_insert_other {j k : Nat} (h : j ≠ k) (v : α) (m : List (Nat × α)) :
    lookup j (insert k v m) = lookup j m := by
  induction m with
  | nil => simp [insert, lookup, Ne.symm h]
  | cons c m ih =>
    by_cases hk : k < c.1
    · simp [insert, lookup, hk, Ne.symm h]
    · rw [insert, if_neg hk, lookup, lookup, ih]

theorem lookup_insert_same (k : Nat) (v : α) (m : List (Nat × α)) (h : lookup k m = none) :
    lookup k (insert k v m) = some v := by
  induction m with
  | nil => simp [insert, lookup]
  | cons c m ih =>
    by_cases hc : c.1 = k
    · simp [lookup, hc] at h
    · have h' : lookup k m = none := by simpa [lookup, hc] using h
      by_cases hk : k < c.1 <;> simp [insert, lookup, hk, hc, ih h']

theorem lookup_put_same (k : Nat) (v : α) (m : List (Nat × α)) : lookup k (put k v m) = some v :=
  lookup_insert_same k v _ (lookup_erase_same k m)

theorem lookup_put_other {j k : Nat} (h : j ≠ k) (v : α) (m : List (Nat × α)) :
    lookup j (put k v m) = lookup j m :=
  (lookup_insert_other h v _).trans (lookup_erase_other h m)

/-- Every key of the list is above `b`. -/
def Above (b : Nat) (m : List (Nat × α)) : Prop := ∀ c ∈ m, b < c.1

theorem sorted_cons {c : Nat × α} {m : List (Nat × α)} :
    sorted (c :: m) = true ↔ Above c.1 m ∧ sorted m = true := by
  induction m generalizing c with
  | nil => simp [sorted, Above]
  | cons d m ih =>
    simp only [sorted, Bool.and_eq_true, decide_eq_true_eq]
    constructor
    · rintro ⟨h1, h2⟩
      refine ⟨fun e he => ?_, h2⟩
      rcases List.mem_cons.1 he with rfl | he
      · exact h1
      · exact h1.trans ((ih.1 h2).1 e he)
    · rintro ⟨h1, h2⟩
      exact ⟨h1 d (List.mem_cons_self ..), h2⟩

theorem mem_erase {k : Nat} {e : Nat × α} {m : List (Nat × α)} (h : e ∈ erase k m) : e ∈ m ∧ e.1 ≠ k := by
  induction m with
  | nil => simp [erase] at h
  | cons c m ih =>
    by_cases hk : c.1 = k
    · rw [erase, if_pos hk] at h
      exact ⟨List.mem_cons_of_mem _ (ih h).1, (ih h).2⟩
    · rw [erase, if_neg hk] at h
      rcases List.mem_cons.1 h with rfl | h
      · exact ⟨List.mem_cons_self .., hk⟩
      · exact ⟨List.mem_cons_of_mem _ (ih h).1, (ih h).2⟩

theorem mem_insert {k : Nat} {v : α} {e : Nat × α} {m : List (Nat × α)} (h : e ∈ insert k v m) :
    e = (k, v) ∨ e ∈ m := by
  induction m with
  | nil => exact Or.inl (by simpa [insert] using h)
  | cons c m ih =>
    by_cases hk : k < c.1
    · rw [insert, if_pos hk] at h
      exact List.mem_cons.1 h
    · rw [insert, if_neg hk] at h
      rcases List.mem_cons.1 h with rfl | h
      · exact Or.inr (List.mem_cons_self ..)
      · exact (ih h).imp_right (List.mem_cons_of_mem _)

theorem sorted_erase (k : Nat) {m : List (Nat × α)} (h : sorted m = true) : sorted (erase k m) = true := by
  induction m with
  | nil => rfl
  | cons c m ih =>
    have ⟨ha, hs⟩ := sorted_cons.1 h
    by_cases hk : c.1 = k
    · rw [erase, if_pos hk]
      exact ih hs
    · rw [erase, if_neg hk]
      exact sorted_cons.2 ⟨fun e he => ha e (mem_erase he).1, ih hs⟩

theorem sorted_insert (k : Nat) (v : α) {m : List (Nat × α)} (h : sorted m = true)
    (hk : ∀ e ∈ m, e.1 ≠ k) : sorted (insert k v m) = true := by
  induction m with
  | nil => rfl
  | cons c m ih =>
    have ⟨ha, hs⟩ := sorted_cons.1 h
    have hc : c.1 ≠ k := hk c (List.mem_cons_self ..)
    by_cases hlt : k < c.1
    · rw [insert, if_pos hlt]
      refine sorted_cons.2 ⟨fun e he => ?_, h⟩
      rcases List.mem_cons.1 he with rfl | he
      · exact hlt
      · exact hlt.trans (ha e he)
    · rw [insert, if_neg hlt]
      refine sorted_cons.2 ⟨fun e he => ?_, ih hs fun e he => hk e (List.mem_cons_of_mem _ he)⟩
      rcases mem_insert he with rfl | he
      · show c.1 < k
        omega
      · exact ha e he

theorem sorted_put (k : Nat) (v : α) {m : List (Nat × α)} (h : sorted m = true) :
    sorted (put k v m) = true :=
  sorted_insert k v (sorted_erase k h) fun _ he => (mem_erase he).2

theorem mem_put {k : Nat} {v : α} {e : Nat × α} {m : List (Nat × α)} (h : e ∈ put k v m) :
    e = (k, v) ∨ e ∈ m :=
  (mem_insert h).imp_right fun h => (mem_erase h).1

end Sparse

namespace Memory

theorem read_write_same (m : Memory) (i : Nat) (v : Byte) : read (write m i v) i = v := by
  by_cases h : v = 0
  · rw [write, if_pos h, read, Sparse.lookup_erase_same, h, Option.getD_none]
  · rw [write, if_neg h, read, Sparse.lookup_put_same, Option.getD_some]

theorem read_write_other (m : Memory) {i j : Nat} (v : Byte) (h : j ≠ i) :
    read (write m i v) j = read m j := by
  by_cases hv : v = 0
  · rw [write, if_pos hv, read, Sparse.lookup_erase_other h, read]
  · rw [write, if_neg hv, read, Sparse.lookup_put_other h, read]

theorem read_write (m : Memory) (i j : Nat) (v : Byte) :
    read (write m i v) j = if j = i then v else read m j := by
  by_cases h : j = i
  · rw [if_pos h, h, read_write_same]
  · rw [if_neg h, read_write_other m v h]

theorem wf_iff {size : Nat} {m : Memory} :
    wf size m = true ↔ Sparse.sorted m = true ∧ ∀ c ∈ m, c.1 < size ∧ c.2 ≠ 0 := by
  simp [wf]

/-- A write below the size keeps the canonical form. -/
theorem write_wf {size : Nat} {m : Memory} (h : wf size m = true) {i : Nat} (hi : i < size) (v : Byte) :
    wf size (write m i v) = true := by
  have ⟨hs, hm⟩ := wf_iff.1 h
  by_cases hv : v = 0
  · rw [write, if_pos hv]
    exact wf_iff.2 ⟨Sparse.sorted_erase i hs, fun c hc => hm c (Sparse.mem_erase hc).1⟩
  · rw [write, if_neg hv]
    refine wf_iff.2 ⟨Sparse.sorted_put i v hs, fun c hc => ?_⟩
    rcases Sparse.mem_put hc with rfl | hc
    · exact ⟨hi, hv⟩
    · exact hm c hc

theorem ofBytes_above (i : Nat) (bs : List Byte) : ∀ c ∈ ofBytes i bs, i ≤ c.1 ∧ c.1 < i + bs.length ∧ c.2 ≠ 0 := by
  induction bs generalizing i with
  | nil => simp [ofBytes]
  | cons b bs ih =>
    intro c hc
    have step : ∀ c ∈ ofBytes (i + 1) bs, i ≤ c.1 ∧ c.1 < i + (b :: bs).length ∧ c.2 ≠ 0 := fun c hc => by
      have ⟨h1, h2, h3⟩ := ih (i + 1) c hc
      simp only [List.length_cons]
      exact ⟨by omega, by omega, h3⟩
    by_cases hb : b = 0
    · rw [ofBytes, if_pos hb] at hc
      exact step c hc
    · rw [ofBytes, if_neg hb] at hc
      rcases List.mem_cons.1 hc with rfl | hc
      · exact ⟨Nat.le_refl i, by simp, hb⟩
      · exact step c hc

/-- An array read from a byte list is canonical. -/
theorem ofBytes_wf (bs : List Byte) : wf bs.length (ofBytes 0 bs) = true := by
  refine wf_iff.2 ⟨?_, fun c hc => ?_⟩
  · suffices ∀ i, Sparse.sorted (ofBytes i bs) = true from this 0
    induction bs with
    | nil => exact fun _ => rfl
    | cons b bs ih =>
      intro i
      by_cases hb : b = 0
      · rw [ofBytes, if_pos hb]
        exact ih (i + 1)
      · rw [ofBytes, if_neg hb]
        exact Sparse.sorted_cons.2 ⟨fun c hc => (ofBytes_above (i + 1) bs c hc).1, ih (i + 1)⟩
  · have := ofBytes_above 0 bs c hc
    exact ⟨by have := this.2.1; omega, this.2.2⟩

end Memory

end Sys2Proof
end

