-- ==== Sys2Proof/Laws/State.lean ====
section
/-! SUPPORT. One lemma per field per named update of the state. -/

namespace Sys2Proof.Machine

@[simp] theorem State.mapCpu_cfg (g : Cpu → Cpu) (s : State) : (s.mapCpu g).cfg = s.cfg := rfl
@[simp] theorem State.mapCpu_mainBus (g : Cpu → Cpu) (s : State) : (s.mapCpu g).mainBus = s.mainBus := rfl
@[simp] theorem State.mapCpu_picBus (g : Cpu → Cpu) (s : State) : (s.mapCpu g).picBus = s.picBus := rfl
@[simp] theorem State.mapCpu_ram (g : Cpu → Cpu) (s : State) : (s.mapCpu g).ram = s.ram := rfl
@[simp] theorem State.mapCpu_vram (g : Cpu → Cpu) (s : State) : (s.mapCpu g).vram = s.vram := rfl
@[simp] theorem State.mapCpu_dma (g : Cpu → Cpu) (s : State) : (s.mapCpu g).dma = s.dma := rfl
@[simp] theorem State.mapCpu_reports (g : Cpu → Cpu) (s : State) : (s.mapCpu g).reports = s.reports := rfl
@[simp] theorem State.mapCpu_floatReads (g : Cpu → Cpu) (s : State) : (s.mapCpu g).floatReads = s.floatReads := rfl
@[simp] theorem State.mapCpu_ppu (g : Cpu → Cpu) (s : State) : (s.mapCpu g).ppu = s.ppu := rfl
@[simp] theorem State.mapCpu_cpu (g : Cpu → Cpu) (s : State) : (s.mapCpu g).cpu = g s.cpu := rfl

@[simp] theorem State.mapPpu_cfg (g : Ppu → Ppu) (s : State) : (s.mapPpu g).cfg = s.cfg := rfl
@[simp] theorem State.mapPpu_mainBus (g : Ppu → Ppu) (s : State) : (s.mapPpu g).mainBus = s.mainBus := rfl
@[simp] theorem State.mapPpu_picBus (g : Ppu → Ppu) (s : State) : (s.mapPpu g).picBus = s.picBus := rfl
@[simp] theorem State.mapPpu_ram (g : Ppu → Ppu) (s : State) : (s.mapPpu g).ram = s.ram := rfl
@[simp] theorem State.mapPpu_vram (g : Ppu → Ppu) (s : State) : (s.mapPpu g).vram = s.vram := rfl
@[simp] theorem State.mapPpu_dma (g : Ppu → Ppu) (s : State) : (s.mapPpu g).dma = s.dma := rfl
@[simp] theorem State.mapPpu_reports (g : Ppu → Ppu) (s : State) : (s.mapPpu g).reports = s.reports := rfl
@[simp] theorem State.mapPpu_floatReads (g : Ppu → Ppu) (s : State) : (s.mapPpu g).floatReads = s.floatReads := rfl
@[simp] theorem State.mapPpu_cpu (g : Ppu → Ppu) (s : State) : (s.mapPpu g).cpu = s.cpu := rfl
@[simp] theorem State.mapPpu_ppu (g : Ppu → Ppu) (s : State) : (s.mapPpu g).ppu = g s.ppu := rfl

@[simp] theorem Cpu.putFlag_a (f : Flag) (b : Bool) (c : Cpu) : (c.putFlag f b).a = c.a := rfl
@[simp] theorem Cpu.putFlag_x (f : Flag) (b : Bool) (c : Cpu) : (c.putFlag f b).x = c.x := rfl
@[simp] theorem Cpu.putFlag_y (f : Flag) (b : Bool) (c : Cpu) : (c.putFlag f b).y = c.y := rfl
@[simp] theorem Cpu.putFlag_s (f : Flag) (b : Bool) (c : Cpu) : (c.putFlag f b).s = c.s := rfl
@[simp] theorem Cpu.putFlag_p (f : Flag) (b : Bool) (c : Cpu) : (c.putFlag f b).p = putBit f.bit b c.p := rfl
@[simp] theorem Cpu.putFlag_pc (f : Flag) (b : Bool) (c : Cpu) : (c.putFlag f b).pc = c.pc := rfl
@[simp] theorem Cpu.putFlag_pending (f : Flag) (b : Bool) (c : Cpu) : (c.putFlag f b).pending = c.pending := rfl
@[simp] theorem Cpu.putFlag_halt (f : Flag) (b : Bool) (c : Cpu) : (c.putFlag f b).halt = c.halt := rfl

@[simp] theorem Cpu.setStatus_a (v : Byte) (c : Cpu) : (c.setStatus v).a = c.a := rfl
@[simp] theorem Cpu.setStatus_x (v : Byte) (c : Cpu) : (c.setStatus v).x = c.x := rfl
@[simp] theorem Cpu.setStatus_y (v : Byte) (c : Cpu) : (c.setStatus v).y = c.y := rfl
@[simp] theorem Cpu.setStatus_s (v : Byte) (c : Cpu) : (c.setStatus v).s = c.s := rfl
@[simp] theorem Cpu.setStatus_p (v : Byte) (c : Cpu) : (c.setStatus v).p = v ||| 0x30 := rfl
@[simp] theorem Cpu.setStatus_pc (v : Byte) (c : Cpu) : (c.setStatus v).pc = c.pc := rfl
@[simp] theorem Cpu.setStatus_pending (v : Byte) (c : Cpu) : (c.setStatus v).pending = c.pending := rfl
@[simp] theorem Cpu.setStatus_halt (v : Byte) (c : Cpu) : (c.setStatus v).halt = c.halt := rfl

@[simp] theorem Cpu.setNZ_a (v : Byte) (c : Cpu) : (c.setNZ v).a = c.a := rfl
@[simp] theorem Cpu.setNZ_x (v : Byte) (c : Cpu) : (c.setNZ v).x = c.x := rfl
@[simp] theorem Cpu.setNZ_y (v : Byte) (c : Cpu) : (c.setNZ v).y = c.y := rfl
@[simp] theorem Cpu.setNZ_s (v : Byte) (c : Cpu) : (c.setNZ v).s = c.s := rfl
@[simp] theorem Cpu.setNZ_pc (v : Byte) (c : Cpu) : (c.setNZ v).pc = c.pc := rfl
@[simp] theorem Cpu.setNZ_pending (v : Byte) (c : Cpu) : (c.setNZ v).pending = c.pending := rfl
@[simp] theorem Cpu.setNZ_halt (v : Byte) (c : Cpu) : (c.setNZ v).halt = c.halt := rfl

@[simp] theorem Cpu.writeA_a (v : Byte) (c : Cpu) : (c.writeA v).a = v := rfl
@[simp] theorem Cpu.writeA_x (v : Byte) (c : Cpu) : (c.writeA v).x = c.x := rfl
@[simp] theorem Cpu.writeA_y (v : Byte) (c : Cpu) : (c.writeA v).y = c.y := rfl
@[simp] theorem Cpu.writeA_s (v : Byte) (c : Cpu) : (c.writeA v).s = c.s := rfl
@[simp] theorem Cpu.writeA_p (v : Byte) (c : Cpu) : (c.writeA v).p = (c.setNZ v).p := rfl
@[simp] theorem Cpu.writeA_pc (v : Byte) (c : Cpu) : (c.writeA v).pc = c.pc := rfl
@[simp] theorem Cpu.writeA_pending (v : Byte) (c : Cpu) : (c.writeA v).pending = c.pending := rfl
@[simp] theorem Cpu.writeA_halt (v : Byte) (c : Cpu) : (c.writeA v).halt = c.halt := rfl

@[simp] theorem Cpu.writeX_a (v : Byte) (c : Cpu) : (c.writeX v).a = c.a := rfl
@[simp] theorem Cpu.writeX_x (v : Byte) (c : Cpu) : (c.writeX v).x = v := rfl
@[simp] theorem Cpu.writeX_y (v : Byte) (c : Cpu) : (c.writeX v).y = c.y := rfl
@[simp] theorem Cpu.writeX_s (v : Byte) (c : Cpu) : (c.writeX v).s = c.s := rfl
@[simp] theorem Cpu.writeX_p (v : Byte) (c : Cpu) : (c.writeX v).p = (c.setNZ v).p := rfl
@[simp] theorem Cpu.writeX_pc (v : Byte) (c : Cpu) : (c.writeX v).pc = c.pc := rfl
@[simp] theorem Cpu.writeX_pending (v : Byte) (c : Cpu) : (c.writeX v).pending = c.pending := rfl
@[simp] theorem Cpu.writeX_halt (v : Byte) (c : Cpu) : (c.writeX v).halt = c.halt := rfl

@[simp] theorem Cpu.writeY_a (v : Byte) (c : Cpu) : (c.writeY v).a = c.a := rfl
@[simp] theorem Cpu.writeY_x (v : Byte) (c : Cpu) : (c.writeY v).x = c.x := rfl
@[simp] theorem Cpu.writeY_y (v : Byte) (c : Cpu) : (c.writeY v).y = v := rfl
@[simp] theorem Cpu.writeY_s (v : Byte) (c : Cpu) : (c.writeY v).s = c.s := rfl
@[simp] theorem Cpu.writeY_p (v : Byte) (c : Cpu) : (c.writeY v).p = (c.setNZ v).p := rfl
@[simp] theorem Cpu.writeY_pc (v : Byte) (c : Cpu) : (c.writeY v).pc = c.pc := rfl
@[simp] theorem Cpu.writeY_pending (v : Byte) (c : Cpu) : (c.writeY v).pending = c.pending := rfl
@[simp] theorem Cpu.writeY_halt (v : Byte) (c : Cpu) : (c.writeY v).halt = c.halt := rfl

@[simp] theorem Cpu.writeS_a (v : Byte) (c : Cpu) : (c.writeS v).a = c.a := rfl
@[simp] theorem Cpu.writeS_x (v : Byte) (c : Cpu) : (c.writeS v).x = c.x := rfl
@[simp] theorem Cpu.writeS_y (v : Byte) (c : Cpu) : (c.writeS v).y = c.y := rfl
@[simp] theorem Cpu.writeS_s (v : Byte) (c : Cpu) : (c.writeS v).s = v := rfl
@[simp] theorem Cpu.writeS_p (v : Byte) (c : Cpu) : (c.writeS v).p = c.p := rfl
@[simp] theorem Cpu.writeS_pc (v : Byte) (c : Cpu) : (c.writeS v).pc = c.pc := rfl
@[simp] theorem Cpu.writeS_pending (v : Byte) (c : Cpu) : (c.writeS v).pending = c.pending := rfl
@[simp] theorem Cpu.writeS_halt (v : Byte) (c : Cpu) : (c.writeS v).halt = c.halt := rfl

@[simp] theorem Cpu.setPC_a (v : Addr) (c : Cpu) : (c.setPC v).a = c.a := rfl
@[simp] theorem Cpu.setPC_x (v : Addr) (c : Cpu) : (c.setPC v).x = c.x := rfl
@[simp] theorem Cpu.setPC_y (v : Addr) (c : Cpu) : (c.setPC v).y = c.y := rfl
@[simp] theorem Cpu.setPC_s (v : Addr) (c : Cpu) : (c.setPC v).s = c.s := rfl
@[simp] theorem Cpu.setPC_p (v : Addr) (c : Cpu) : (c.setPC v).p = c.p := rfl
@[simp] theorem Cpu.setPC_pc (v : Addr) (c : Cpu) : (c.setPC v).pc = v := rfl
@[simp] theorem Cpu.setPC_pending (v : Addr) (c : Cpu) : (c.setPC v).pending = c.pending := rfl
@[simp] theorem Cpu.setPC_halt (v : Addr) (c : Cpu) : (c.setPC v).halt = c.halt := rfl

theorem Cpu.setNZ_p (v : Byte) (c : Cpu) :
    (c.setNZ v).p = putBit 7 v.msb (putBit 1 (v == 0) c.p) := rfl

end Sys2Proof.Machine
end

