-- ==== Sys2Proof/Laws/Bus.lean ====
section
/-! SUPPORT. The two buses: which device answers, which receive; what a read or a write changes; how each commutes with a
change of the processor's registers. -/

namespace Sys2Proof.Machine

/-! ### The maps -/

theorem inRange_ram (a : Addr) :
    inRange a ⟨0x1FFF, MainDevice.workingRam, true⟩ = decide (a.toNat % 0x2000 ≠ 0 ∨ a = 0) := by
  have : (a &&& (0x1FFF : Addr) != 0) = _ := and_low_ne_zero a 0x1FFF 13 rfl
  rw [inRange, this, Bool.eq_iff_iff]
  simp

theorem inRange_window (a : Addr) :
    inRange a ⟨0x2000, MainDevice.registerWindow, false⟩ = a.getLsbD 13 := by
  have : (a &&& (0x2000 : Addr) != 0) = _ := and_bit_ne_zero a 13 (by decide)
  rw [inRange, this, Bool.and_false, Bool.or_false]

theorem inRange_rom (a : Addr) : inRange a ⟨0x8000, MainDevice.programRom, false⟩ = a.getLsbD 15 := by
  have : (a &&& (0x8000 : Addr) != 0) = _ := and_bit_ne_zero a 15 (by decide)
  rw [inRange, this, Bool.and_false, Bool.or_false]

theorem inRange_patternRom (a : PicAddr) :
    inRange a ⟨0x1FFF, PicDevice.patternRom, true⟩ = decide (a.toNat % 0x2000 ≠ 0 ∨ a = 0) := by
  have : (a &&& (0x1FFF : PicAddr) != 0) = _ := and_low_ne_zero a 0x1FFF 13 rfl
  rw [inRange, this, Bool.eq_iff_iff]
  simp

theorem inRange_pictureRam (a : PicAddr) :
    inRange a ⟨0x2000, PicDevice.pictureRam, false⟩ = a.getLsbD 13 := by
  have : (a &&& (0x2000 : PicAddr) != 0) = _ := and_bit_ne_zero a 13 (by decide)
  rw [inRange, this, Bool.and_false, Bool.or_false]

/-- The device that answers a main-bus read: the largest mask in range. -/
theorem answering_main (a : Addr) :
    answering mainDevices a =
      if a.getLsbD 15 then some .programRom
      else if a.getLsbD 13 then some .registerWindow
      else if a.toNat % 0x2000 ≠ 0 ∨ a = 0 then some .workingRam
      else none := by
  simp only [answering, mainDevices, List.filter_cons, List.filter_nil, inRange_ram, inRange_window, inRange_rom]
  cases a.getLsbD 15 <;> cases a.getLsbD 13 <;> by_cases h : a.toNat % 0x2000 ≠ 0 ∨ a = 0 <;>
    simp only [h, decide_true, decide_false, if_true, if_false, Bool.false_eq_true] <;> rfl

/-- The devices a main-bus write reaches, in attachment order. -/
theorem receiving_main (a : Addr) :
    receiving mainDevices a =
      (if a.toNat % 0x2000 ≠ 0 ∨ a = 0 then [.workingRam] else []) ++
      (if a.getLsbD 13 then [.registerWindow] else []) ++ (if a.getLsbD 15 then [.programRom] else []) := by
  simp only [receiving, mainDevices, List.filter_cons, List.filter_nil, inRange_ram, inRange_window, inRange_rom]
  cases a.getLsbD 15 <;> cases a.getLsbD 13 <;> by_cases h : a.toNat % 0x2000 ≠ 0 ∨ a = 0 <;>
    simp only [h, decide_true, decide_false, if_true, if_false, Bool.false_eq_true] <;> rfl

/-- Every picture-bus address has a device: no read floats. -/
theorem pic_covered (a : PicAddr) (h : a.getLsbD 13 = false) : a.toNat % 0x2000 ≠ 0 ∨ a = 0 := by
  have hn := mt (bit13_iff a).2 (by rw [h]; exact Bool.false_ne_true)
  have := a.isLt
  by_cases h0 : a.toNat = 0
  · exact Or.inr (BitVec.eq_of_toNat_eq h0)
  · exact Or.inl (by omega)

theorem answering_pic (a : PicAddr) :
    answering picDevices a = if a.getLsbD 13 then some .pictureRam else some .patternRom := by
  simp only [answering, picDevices, List.filter_cons, List.filter_nil, inRange_patternRom, inRange_pictureRam]
  cases h : a.getLsbD 13
  · simp only [pic_covered a h, decide_true, if_true, if_false, Bool.false_eq_true]
    rfl
  · by_cases h : a.toNat % 0x2000 ≠ 0 ∨ a = 0 <;> simp only [h, decide_true, decide_false, if_true, if_false, Bool.false_eq_true] <;> rfl

theorem receiving_pic (a : PicAddr) :
    receiving picDevices a =
      (if a.toNat % 0x2000 ≠ 0 ∨ a = 0 then [.patternRom] else []) ++
      (if a.getLsbD 13 then [.pictureRam] else []) := by
  simp only [receiving, picDevices, List.filter_cons, List.filter_nil, inRange_patternRom, inRange_pictureRam]
  cases a.getLsbD 13 <;> by_cases h : a.toNat % 0x2000 ≠ 0 ∨ a = 0 <;>
    simp only [h, decide_true, decide_false, if_true, if_false, Bool.false_eq_true] <;> rfl

/-! ### The picture bus -/

/-- A picture-bus read, in closed form: the value and the latches. -/
theorem picRead_eq (a : PicAddr) (s : State) :
    picRead a s =
      let v := if a.getLsbD 13 then Memory.read s.vram (a.toNat % 2048) else Memory.read s.cfg.chr (a.toNat % 8192)
      { value := v, state := { s with picBus := readLatch a v } } := by
  rw [picRead, answering_pic]
  cases a.getLsbD 13 <;> simp only [if_true, if_false, Bool.false_eq_true, PicDevice.read, chrIndex_eq, vramIndex_eq] <;> rfl

/-- A picture-bus write, in closed form. -/
theorem picWrite_eq (a : PicAddr) (v : Byte) (s : State) :
    picWrite a v s =
      { s with
        picBus := writeLatch a v
        vram := if a.getLsbD 13 then Memory.write s.vram (a.toNat % 2048) v else s.vram } := by
  rw [picWrite, receiving_pic]
  cases a.getLsbD 13 <;> by_cases h : a.toNat % 0x2000 ≠ 0 ∨ a = 0 <;>
    simp only [h, if_true, if_false, Bool.false_eq_true, List.append_nil, List.nil_append, List.cons_append,
      List.foldl_cons, List.foldl_nil, PicDevice.write, vramIndex_eq] <;> rfl

/-! ### The main bus -/

theorem busRead_state (a : Addr) (s : State) :
    busRead a s =
      let r : Read :=
        if a.getLsbD 15 then { value := Memory.read s.cfg.prg (a.toNat % s.cfg.prgSize.bytes), state := s }
        else if a.getLsbD 13 then (PpuReg.ofAddr a).read s
        else if a.toNat % 0x2000 ≠ 0 ∨ a = 0 then { value := Memory.read s.ram (a.toNat % 2048), state := s }
        else floating s
      { value := r.value, state := { r.state with mainBus := readLatch a r.value } } := by
  rw [busRead, answering_main]
  cases a.getLsbD 15 <;> cases a.getLsbD 13 <;> by_cases h : a.toNat % 0x2000 ≠ 0 ∨ a = 0 <;>
    simp only [h, if_true, if_false, Bool.false_eq_true, MainDevice.read, prgIndex_eq, ramIndex_eq] <;> rfl

theorem busWrite_eq (a : Addr) (v : Byte) (s : State) :
    busWrite a v s =
      let toRam :=
        { s with
          mainBus := writeLatch a v
          ram := if a.toNat % 0x2000 ≠ 0 ∨ a = 0 then Memory.write s.ram (a.toNat % 2048) v else s.ram }
      if a.getLsbD 13 then (PpuReg.ofAddr a).write v toRam else toRam := by
  rw [busWrite, receiving_main]
  cases a.getLsbD 15 <;> cases a.getLsbD 13 <;> by_cases h : a.toNat % 0x2000 ≠ 0 ∨ a = 0 <;>
    simp only [h, if_true, if_false, Bool.false_eq_true, List.append_nil, List.nil_append, List.cons_append,
      List.foldl_cons, List.foldl_nil, MainDevice.write, ramIndex_eq] <;> rfl

/-- A read of program ROM. -/
theorem busRead_of_rom {a : Addr} (h : a.getLsbD 15 = true) (s : State) :
    busRead a s =
      let v := Memory.read s.cfg.prg (a.toNat % s.cfg.prgSize.bytes)
      { value := v, state := { s with mainBus := readLatch a v } } := by
  rw [busRead_state, if_pos h]

/-- A read of Working RAM. -/
theorem busRead_of_ram {a : Addr} (h : a.toNat < 0x2000) (s : State) :
    busRead a s =
      let v := Memory.read s.ram (a.toNat % 2048)
      { value := v, state := { s with mainBus := readLatch a v } } := by
  have h15 : ¬ a.getLsbD 15 = true := by rw [bit15_iff]; omega
  have h13 : ¬ a.getLsbD 13 = true := by rw [bit13_iff]; omega
  have hr : a.toNat % 0x2000 ≠ 0 ∨ a = 0 := by
    by_cases h0 : a.toNat = 0
    · exact Or.inr (BitVec.eq_of_toNat_eq h0)
    · exact Or.inl (by omega)
  rw [busRead_state, if_neg h15, if_neg h13, if_pos hr]

/-- A write to Working RAM. -/
theorem busWrite_of_ram {a : Addr} (h : a.toNat < 0x2000) (v : Byte) (s : State) :
    busWrite a v s = { s with mainBus := writeLatch a v, ram := Memory.write s.ram (a.toNat % 2048) v } := by
  have h13 : ¬ a.getLsbD 13 = true := by rw [bit13_iff]; omega
  have hr : a.toNat % 0x2000 ≠ 0 ∨ a = 0 := by
    by_cases h0 : a.toNat = 0
    · exact Or.inr (BitVec.eq_of_toNat_eq h0)
    · exact Or.inl (by omega)
  rw [busWrite_eq]
  simp only [h13, if_pos hr]
  rfl

theorem cpuWrite_of_ram {a : Addr} (h : a.toNat < 0x2000) (v : Byte) (s : State) :
    cpuWrite a v s = { s with mainBus := writeLatch a v, ram := Memory.write s.ram (a.toNat % 2048) v } := by
  have hi : ¬ isInternal a = true := by rw [isInternal_iff]; omega
  rw [cpuWrite, busWrite_of_ram h]
  simp only [hi]
  rfl

/-! ### Which register an address selects -/

theorem and_seven (n : Nat) : n &&& 7 = n % 8 := Nat.and_two_pow_sub_one_eq_mod n 3

/-- The eight cases of a window address. -/
theorem ofAddr_cases (a : Addr) :
    (a.toNat % 8 = 0 ∧ PpuReg.ofAddr a = .control) ∨ (a.toNat % 8 = 1 ∧ PpuReg.ofAddr a = .mask) ∨
    (a.toNat % 8 = 2 ∧ PpuReg.ofAddr a = .status) ∨ (a.toNat % 8 = 3 ∧ PpuReg.ofAddr a = .oamAddress) ∨
    (a.toNat % 8 = 4 ∧ PpuReg.ofAddr a = .oamData) ∨ (a.toNat % 8 = 5 ∧ PpuReg.ofAddr a = .scroll) ∨
    (a.toNat % 8 = 6 ∧ PpuReg.ofAddr a = .address) ∨ (a.toNat % 8 = 7 ∧ PpuReg.ofAddr a = .data) := by
  have h : a.toNat % 8 = 0 ∨ a.toNat % 8 = 1 ∨ a.toNat % 8 = 2 ∨ a.toNat % 8 = 3 ∨ a.toNat % 8 = 4 ∨
      a.toNat % 8 = 5 ∨ a.toNat % 8 = 6 ∨ a.toNat % 8 = 7 := by omega
  rcases h with h | h | h | h | h | h | h | h <;> simp [PpuReg.ofAddr, and_seven, h]

/-! ### Frames -/

/-- All that a read of a register may change. -/
theorem PpuReg.read_frame (r : PpuReg) (s : State) :
    (r.read s).state = { s with
      picBus := (r.read s).state.picBus
      ppu := { s.ppu with
        status := (r.read s).state.ppu.status, w := (r.read s).state.ppu.w, v := (r.read s).state.ppu.v } } := by
  cases r <;> try rfl
  simp only [PpuReg.read, picRead_eq]
  rfl

/-- All that a write of a register may change. -/
theorem PpuReg.write_frame (r : PpuReg) (b : Byte) (s : State) :
    r.write b s = { s with
      picBus := (r.write b s).picBus
      vram := (r.write b s).vram
      ppu := { (r.write b s).ppu with
        status := s.ppu.status, dot := s.ppu.dot, scanline := s.ppu.scanline, frame := s.ppu.frame,
        frameReady := s.ppu.frameReady, fb := s.ppu.fb } } := by
  cases r <;> try rfl
  · simp only [PpuReg.write, Ppu.writeAddress, State.mapPpu]
    split <;> rfl
  · simp only [PpuReg.write, picWrite_eq]
    rfl

/-- All that a floating read may change. -/
theorem floating_frame (s : State) : (floating s).state = { s with floatReads := (floating s).state.floatReads } := by
  rw [floating]
  split <;> rfl

/-- All that a main-bus read may change. -/
theorem busRead_changes (a : Addr) (s : State) :
    (busRead a s).state = { s with
      mainBus := (busRead a s).state.mainBus
      picBus := (busRead a s).state.picBus
      floatReads := (busRead a s).state.floatReads
      ppu := { s.ppu with
        status := (busRead a s).state.ppu.status, w := (busRead a s).state.ppu.w,
        v := (busRead a s).state.ppu.v } } := by
  rw [busRead_state]
  split
  · rfl
  · split
    · simp only
      conv => lhs; rw [PpuReg.read_frame]
      rw [PpuReg.read_frame]
    · split
      · rfl
      · simp only
        conv => lhs; rw [floating_frame]
        rw [floating_frame]

/-- All that a main-bus write may change. -/
theorem busWrite_changes (a : Addr) (v : Byte) (s : State) :
    busWrite a v s = { s with
      mainBus := writeLatch a v
      picBus := (busWrite a v s).picBus
      ram := (busWrite a v s).ram
      vram := (busWrite a v s).vram
      ppu := { (busWrite a v s).ppu with
        status := s.ppu.status, dot := s.ppu.dot, scanline := s.ppu.scanline, frame := s.ppu.frame,
        frameReady := s.ppu.frameReady, fb := s.ppu.fb } } := by
  rw [busWrite_eq]
  simp only
  split
  · conv => lhs; rw [PpuReg.write_frame]
    rw [PpuReg.write_frame]
  · rfl

end Sys2Proof.Machine
end

