-- ==== Sys2Proof/Machine/Cartridge.lean ====
section
/-! DEFINITION. The cartridge image: the interface through which `PRG` and `CHR` arrive (20_memory.md R108 to R110; log 19). -/

namespace Sys2Proof.Machine

/-- The header fields (R108). -/
structure ImageHeader where
  programBanks : Nat
  patternBanks : Nat
  verticalMirroring : Bool
  battery : Bool
  mapper : Byte
  deriving DecidableEq, Repr

/-- A parsed image (R109). -/
structure Image where
  header : ImageHeader
  program : List Byte
  pattern : List Byte
  deriving DecidableEq, Repr

/-- Why an image is not taken. -/
inductive ImageError where
  /-- Bytes 0 to 3 are not the magic sequence (R108). -/
  | badMagic
  /-- The file ends before the header, the program and the pattern data do (R109). -/
  | truncated
  /-- Another mapper or other bank counts than the machine supports (R110). -/
  | unsupported
  deriving DecidableEq, Repr

/-- The magic sequence (R108). -/
def imageMagic : List Byte := [0x4E, 0x45, 0x53, 0x1A]

/-- The header of an image: its first 16 bytes (R108). The magic sequence is looked at first; a file with it
that ends before the header does is too short for any data sizes (R109; log 19). -/
def parseHeader (bytes : List Byte) : Except ImageError ImageHeader :=
  if bytes.take 4 ≠ imageMagic then .error .badMagic
  else if bytes.length < 16 then .error .truncated
  else
    let b6 := bytes.getD 6 0
    let b7 := bytes.getD 7 0
    .ok
      { programBanks := (bytes.getD 4 0).toNat, patternBanks := (bytes.getD 5 0).toNat,
        verticalMirroring := b6.getLsbD 0, battery := b6.getLsbD 1,
        mapper := b7.extractLsb' 4 4 ++ b6.extractLsb' 4 4 }

/-- Parse an image: header, program data, pattern data; no partial load (R108, R109). -/
def parseImage (bytes : List Byte) : Except ImageError Image :=
  match parseHeader bytes with
  | .error e => .error e
  | .ok h =>
    let prgSize := h.programBanks * 16384
    let chrSize := h.patternBanks * 8192
    if bytes.length < 16 + prgSize + chrSize then .error .truncated
    else
      .ok
        { header := h, program := (bytes.drop 16).take prgSize,
          pattern := (bytes.drop (16 + prgSize)).take chrSize }

/-- The program ROM size of a bank count (R110). -/
def prgSizeOf : Nat → Option PrgSize
  | 1 => some .k16
  | 2 => some .k32
  | _ => none

/-- The configuration an image gives, over the other parameters of `cfg`: mapper 0, one or two
program banks, one pattern bank; the mirroring and battery bits are not read (R110). -/
def imageConfig (image : Image) (cfg : Config) : Except ImageError Config :=
  match prgSizeOf image.header.programBanks with
  | none => .error .unsupported
  | some size =>
    if image.header.mapper = 0 ∧ image.header.patternBanks = 1 then
      .ok
        { cfg with
          prgSize := size, prg := Memory.ofBytes 0 image.program,
          chr := Memory.ofBytes 0 image.pattern }
    else .error .unsupported

/-- The launch state with an image: parse it, power on, `reset()` (70_reset_and_hazards.md R306). -/
def loadImage (bytes : List Byte) (cfg : Config) : Except ImageError State :=
  match parseImage bytes with
  | .error e => .error e
  | .ok image =>
    match imageConfig image cfg with
    | .error e => .error e
    | .ok c => .ok (hostReset (powerOn c [] [] []))

end Sys2Proof.Machine
end

