-- ==== Sys2Proof/Laws/Cartridge.lean ====
section
/-! SUPPORT. What parsing a cartridge image answers: when each rejection occurs, and the sizes of what is taken. -/

namespace Sys2Proof.Machine

theorem parseImage_badMagic {bytes : List Byte} (h : bytes.take 4 ≠ imageMagic) :
    parseImage bytes = .error .badMagic := by
  rw [parseImage, parseHeader, if_pos h]

/-- A file with the magic sequence that is shorter than the header is rejected as truncated (R109). -/
theorem parseImage_short {bytes : List Byte} (h : bytes.take 4 = imageMagic) (hl : bytes.length < 16) :
    parseImage bytes = .error .truncated := by
  rw [parseImage, parseHeader, if_neg (not_not_intro h), if_pos hl]

/-- A file with the magic sequence and a whole header is taken whole, or rejected as truncated, by its
size alone (R109). -/
theorem parseImage_sized {bytes : List Byte} (h : bytes.take 4 = imageMagic) (hl : 16 ≤ bytes.length) :
    let prgSize := 16384 * (bytes.getD 4 0).toNat
    let chrSize := 8192 * (bytes.getD 5 0).toNat
    (bytes.length < 16 + prgSize + chrSize → parseImage bytes = .error .truncated) ∧
    (16 + prgSize + chrSize ≤ bytes.length → ∃ image, parseImage bytes = .ok image ∧
      image.program = (bytes.drop 16).take prgSize ∧ image.program.length = prgSize ∧
      image.pattern = (bytes.drop (16 + prgSize)).take chrSize ∧ image.pattern.length = chrSize) := by
  rw [parseImage, parseHeader, if_neg (not_not_intro h), if_neg (Nat.not_lt.mpr hl)]
  simp only [Nat.mul_comm 16384, Nat.mul_comm 8192]
  refine ⟨fun hs => by rw [if_pos hs], fun hs => ⟨_, by rw [if_neg (Nat.not_lt.mpr hs)], rfl, ?_, rfl, ?_⟩⟩ <;>
    rw [List.length_take, List.length_drop] <;> omega

end Sys2Proof.Machine
end

