-- ==== Sys2Proof/Laws/Flags.lean ====
section
/-! SUPPORT. The flag computations and the register operations in the terms the statements use. -/

namespace Sys2Proof.Machine

/-! ### One flag written -/

theorem putFlagC_eq (p : Byte) (b : Bool) :
    putBit 0 b p =
      statusWord p (p.getLsbD 7) (p.getLsbD 6) (p.getLsbD 3) (p.getLsbD 2) (p.getLsbD 1) b := by
  apply eq_statusWord <;> rw [getLsbD_putBit _ _ _ _ (by decide)] <;> rfl

theorem putFlagI_eq (p : Byte) (b : Bool) :
    putBit 2 b p =
      statusWord p (p.getLsbD 7) (p.getLsbD 6) (p.getLsbD 3) b (p.getLsbD 1) (p.getLsbD 0) := by
  apply eq_statusWord <;> rw [getLsbD_putBit _ _ _ _ (by decide)] <;> rfl

theorem putFlagD_eq (p : Byte) (b : Bool) :
    putBit 3 b p =
      statusWord p (p.getLsbD 7) (p.getLsbD 6) b (p.getLsbD 2) (p.getLsbD 1) (p.getLsbD 0) := by
  apply eq_statusWord <;> rw [getLsbD_putBit _ _ _ _ (by decide)] <;> rfl

theorem putFlagV_eq (p : Byte) (b : Bool) :
    putBit 6 b p =
      statusWord p (p.getLsbD 7) b (p.getLsbD 3) (p.getLsbD 2) (p.getLsbD 1) (p.getLsbD 0) := by
  apply eq_statusWord <;> rw [getLsbD_putBit _ _ _ _ (by decide)] <;> rfl

theorem putBit7_false (p : Byte) : putBit 7 false p = p &&& 0x7F := by
  apply byte_ext <;> rw [getLsbD_putBit _ _ _ _ (by decide), BitVec.getLsbD_and] <;> simp

theorem putBit7_true (p : Byte) : putBit 7 true p = p ||| 0x80 := by
  apply byte_ext <;> rw [getLsbD_putBit _ _ _ _ (by decide), BitVec.getLsbD_or] <;> simp

/-! ### Register writes -/

theorem writeA_eq (v : Byte) (c : Cpu) : c.writeA v = { c with a := v, p := withNZ v c.p } := by
  rw [Cpu.writeA, setNZ_eq]

theorem writeX_eq (v : Byte) (c : Cpu) : c.writeX v = { c with x := v, p := withNZ v c.p } := by
  rw [Cpu.writeX, setNZ_eq]

theorem writeY_eq (v : Byte) (c : Cpu) : c.writeY v = { c with y := v, p := withNZ v c.p } := by
  rw [Cpu.writeY, setNZ_eq]

/-- The common end of ADC and SBC. -/
theorem addInto_eq (b : Byte) (c : Cpu) :
    c.addInto b =
      let k := add8 c.a b (c.p.getLsbD 0)
      { c with a := k.r, p := withNZCV k.r k.cout k.ovf c.p } := by
  simp only [Cpu.addInto, writeA_eq, Cpu.putFlag, Flag.bit, withNZ_putCV]
  rfl

/-- A compare, with the register and the operand as numbers. -/
theorem compare_eq (reg m : Byte) (c : Cpu) :
    c.compare reg m = { c with
      p := statusWord c.p ((reg - m).getLsbD 7) (c.p.getLsbD 6) (c.p.getLsbD 3) (c.p.getLsbD 2)
        (decide (reg = m)) (decide (m.toNat ≤ reg.toNat)) } := by
  have h := m.isLt
  have e1 : BitVec.ofNat 8 (reg.toNat + (255 - m.toNat) + 1) = reg - m := by
    apply BitVec.eq_of_toNat_eq
    simp only [BitVec.toNat_ofNat, BitVec.toNat_sub]
    omega
  have e2 : (reg - m == 0) = decide (reg = m) := by
    rw [Bool.eq_iff_iff, beq_iff_eq, decide_eq_true_eq]
    exact BitVec.sub_eq_iff_eq_add.trans (by rw [show (0 : Byte) + m = m from BitVec.zero_add m])
  have e3 : decide (256 ≤ reg.toNat + (255 - m.toNat) + 1) = decide (m.toNat ≤ reg.toNat) := by
    rw [decide_eq_decide]
    omega
  simp only [Cpu.compare, setNZ_eq, Cpu.putFlag, Flag.bit, withNZ_putC, add8_r, add8_cout, toNat_complement,
    Bool.toNat_true, e1, e3]
  simp only [withNZC, e2]

theorem bitTest_eq (m : Byte) (c : Cpu) :
    bitTest m c = { c with
      p := statusWord c.p (m.getLsbD 7) (m.getLsbD 6) (c.p.getLsbD 3) (c.p.getLsbD 2) ((c.a &&& m) == 0)
        (c.p.getLsbD 0) } := by
  have e : (bitTest m c).p = statusWord c.p (m.getLsbD 7) (m.getLsbD 6) (c.p.getLsbD 3) (c.p.getLsbD 2)
      ((c.a &&& m) == 0) (c.p.getLsbD 0) := by
    apply eq_statusWord <;> simp only [bitTest, Cpu.putFlag, Flag.bit, getLsbD_putBit, Nat.reduceLT] <;> rfl
  rw [← e]
  rfl

/-! ### Shifts as bit strings -/

theorem shiftLeft_eq (v : Byte) : v <<< 1 = (v.extractLsb' 0 7 ++ 0#1 : Byte) := by
  apply byte_ext <;>
    simp only [BitVec.getLsbD_shiftLeft, BitVec.getLsbD_append, BitVec.getLsbD_extractLsb'] <;> simp

theorem shiftRight_eq (v : Byte) : v >>> 1 = (0#1 ++ v.extractLsb' 1 7 : Byte) := by
  apply byte_ext <;>
    simp only [BitVec.getLsbD_ushiftRight, BitVec.getLsbD_append, BitVec.getLsbD_extractLsb'] <;> simp

theorem rotateLeft_eq (v : Byte) (c : Bool) :
    (v <<< 1) ||| (BitVec.ofBool c).zeroExtend 8 = (v.extractLsb' 0 7 ++ BitVec.ofBool c : Byte) := by
  apply byte_ext <;>
    simp only [BitVec.getLsbD_or, BitVec.getLsbD_shiftLeft, BitVec.getLsbD_append, BitVec.getLsbD_extractLsb',
      BitVec.truncate_eq_setWidth, BitVec.getLsbD_setWidth, BitVec.getLsbD_ofBool] <;> simp

theorem rotateRight_eq (v : Byte) (c : Bool) :
    (v >>> 1) ||| ((BitVec.ofBool c).zeroExtend 8 <<< 7) = (BitVec.ofBool c ++ v.extractLsb' 1 7 : Byte) := by
  apply byte_ext <;>
    simp only [BitVec.getLsbD_or, BitVec.getLsbD_ushiftRight, BitVec.getLsbD_shiftLeft, BitVec.getLsbD_append,
      BitVec.getLsbD_extractLsb', BitVec.truncate_eq_setWidth, BitVec.getLsbD_setWidth, BitVec.getLsbD_ofBool] <;>
    simp

/-! ### The register numbers and latches of the Picture Unit -/

theorem latch_high (b : Byte) (t : PicAddr) :
    (b.extractLsb' 0 6 ++ t.extractLsb' 0 8 : PicAddr) = BitVec.ofNat 14 (256 * (b.toNat % 64) + t.toNat % 256) := by
  apply BitVec.eq_of_toNat_eq
  have h : t.toNat >>> 0 % 2 ^ 8 < 2 ^ 8 := Nat.mod_lt _ (by decide)
  rw [BitVec.toNat_append, BitVec.extractLsb'_toNat, BitVec.extractLsb'_toNat, BitVec.toNat_ofNat,
    Nat.shiftLeft_eq, Nat.mul_comm, ← Nat.two_pow_add_eq_or_of_lt h]
  simp only [Nat.shiftRight_zero]
  omega

theorem latch_low (b : Byte) (t : PicAddr) :
    (t.extractLsb' 8 6 ++ b : PicAddr) = BitVec.ofNat 14 (256 * (t.toNat / 256) + b.toNat) := by
  apply BitVec.eq_of_toNat_eq
  have := b.isLt
  have := t.isLt
  rw [BitVec.toNat_append, BitVec.extractLsb'_toNat, BitVec.toNat_ofNat, Nat.shiftLeft_eq, Nat.mul_comm,
    ← Nat.two_pow_add_eq_or_of_lt b.isLt]
  simp only [Nat.shiftRight_eq_div_pow]
  omega

end Sys2Proof.Machine
end

