-- ==== Sys2Proof/Laws/Frames.lean ====
section
/-! SUPPORT. One lemma per part of the state that a bus access leaves alone, and the accesses on a machine whose processor
registers were changed. -/

namespace Sys2Proof.Machine

@[simp] theorem busRead_cfg (a : Addr) (s : State) : (busRead a s).state.cfg = s.cfg := by rw [busRead_changes]
@[simp] theorem busRead_cpu (a : Addr) (s : State) : (busRead a s).state.cpu = s.cpu := by rw [busRead_changes]
@[simp] theorem busRead_ram (a : Addr) (s : State) : (busRead a s).state.ram = s.ram := by rw [busRead_changes]
@[simp] theorem busRead_vram (a : Addr) (s : State) : (busRead a s).state.vram = s.vram := by rw [busRead_changes]
@[simp] theorem busRead_dma (a : Addr) (s : State) : (busRead a s).state.dma = s.dma := by rw [busRead_changes]
@[simp] theorem busRead_reports (a : Addr) (s : State) : (busRead a s).state.reports = s.reports := by rw [busRead_changes]
@[simp] theorem busRead_ppu_ctrl (a : Addr) (s : State) : (busRead a s).state.ppu.ctrl = s.ppu.ctrl := by rw [busRead_changes]
@[simp] theorem busRead_ppu_mask (a : Addr) (s : State) : (busRead a s).state.ppu.mask = s.ppu.mask := by rw [busRead_changes]
@[simp] theorem busRead_ppu_oamaddr (a : Addr) (s : State) : (busRead a s).state.ppu.oamaddr = s.ppu.oamaddr := by rw [busRead_changes]
@[simp] theorem busRead_ppu_scrollLast (a : Addr) (s : State) : (busRead a s).state.ppu.scrollLast = s.ppu.scrollLast := by rw [busRead_changes]
@[simp] theorem busRead_ppu_addrLast (a : Addr) (s : State) : (busRead a s).state.ppu.addrLast = s.ppu.addrLast := by rw [busRead_changes]
@[simp] theorem busRead_ppu_dataLast (a : Addr) (s : State) : (busRead a s).state.ppu.dataLast = s.ppu.dataLast := by rw [busRead_changes]
@[simp] theorem busRead_ppu_t (a : Addr) (s : State) : (busRead a s).state.ppu.t = s.ppu.t := by rw [busRead_changes]
@[simp] theorem busRead_ppu_oam (a : Addr) (s : State) : (busRead a s).state.ppu.oam = s.ppu.oam := by rw [busRead_changes]
@[simp] theorem busRead_ppu_dot (a : Addr) (s : State) : (busRead a s).state.ppu.dot = s.ppu.dot := by rw [busRead_changes]
@[simp] theorem busRead_ppu_scanline (a : Addr) (s : State) : (busRead a s).state.ppu.scanline = s.ppu.scanline := by rw [busRead_changes]
@[simp] theorem busRead_ppu_frame (a : Addr) (s : State) : (busRead a s).state.ppu.frame = s.ppu.frame := by rw [busRead_changes]
@[simp] theorem busRead_ppu_frameReady (a : Addr) (s : State) : (busRead a s).state.ppu.frameReady = s.ppu.frameReady := by rw [busRead_changes]
@[simp] theorem busRead_ppu_fb (a : Addr) (s : State) : (busRead a s).state.ppu.fb = s.ppu.fb := by rw [busRead_changes]

@[simp] theorem cpuRead_cfg (a : Addr) (s : State) : (cpuRead a s).state.cfg = s.cfg := by rw [cpuRead, busRead_changes]
@[simp] theorem cpuRead_cpu (a : Addr) (s : State) : (cpuRead a s).state.cpu = s.cpu := by rw [cpuRead, busRead_changes]
@[simp] theorem cpuRead_ram (a : Addr) (s : State) : (cpuRead a s).state.ram = s.ram := by rw [cpuRead, busRead_changes]
@[simp] theorem cpuRead_vram (a : Addr) (s : State) : (cpuRead a s).state.vram = s.vram := by rw [cpuRead, busRead_changes]
@[simp] theorem cpuRead_dma (a : Addr) (s : State) : (cpuRead a s).state.dma = s.dma := by rw [cpuRead, busRead_changes]
@[simp] theorem cpuRead_reports (a : Addr) (s : State) : (cpuRead a s).state.reports = s.reports := by rw [cpuRead, busRead_changes]
@[simp] theorem cpuRead_ppu_ctrl (a : Addr) (s : State) : (cpuRead a s).state.ppu.ctrl = s.ppu.ctrl := by rw [cpuRead, busRead_changes]
@[simp] theorem cpuRead_ppu_mask (a : Addr) (s : State) : (cpuRead a s).state.ppu.mask = s.ppu.mask := by rw [cpuRead, busRead_changes]
@[simp] theorem cpuRead_ppu_oamaddr (a : Addr) (s : State) : (cpuRead a s).state.ppu.oamaddr = s.ppu.oamaddr := by rw [cpuRead, busRead_changes]
@[simp] theorem cpuRead_ppu_scrollLast (a : Addr) (s : State) : (cpuRead a s).state.ppu.scrollLast = s.ppu.scrollLast := by rw [cpuRead, busRead_changes]
@[simp] theorem cpuRead_ppu_addrLast (a : Addr) (s : State) : (cpuRead a s).state.ppu.addrLast = s.ppu.addrLast := by rw [cpuRead, busRead_changes]
@[simp] theorem cpuRead_ppu_dataLast (a : Addr) (s : State) : (cpuRead a s).state.ppu.dataLast = s.ppu.dataLast := by rw [cpuRead, busRead_changes]
@[simp] theorem cpuRead_ppu_t (a : Addr) (s : State) : (cpuRead a s).state.ppu.t = s.ppu.t := by rw [cpuRead, busRead_changes]
@[simp] theorem cpuRead_ppu_oam (a : Addr) (s : State) : (cpuRead a s).state.ppu.oam = s.ppu.oam := by rw [cpuRead, busRead_changes]
@[simp] theorem cpuRead_ppu_dot (a : Addr) (s : State) : (cpuRead a s).state.ppu.dot = s.ppu.dot := by rw [cpuRead, busRead_changes]
@[simp] theorem cpuRead_ppu_scanline (a : Addr) (s : State) : (cpuRead a s).state.ppu.scanline = s.ppu.scanline := by rw [cpuRead, busRead_changes]
@[simp] theorem cpuRead_ppu_frame (a : Addr) (s : State) : (cpuRead a s).state.ppu.frame = s.ppu.frame := by rw [cpuRead, busRead_changes]
@[simp] theorem cpuRead_ppu_frameReady (a : Addr) (s : State) : (cpuRead a s).state.ppu.frameReady = s.ppu.frameReady := by rw [cpuRead, busRead_changes]
@[simp] theorem cpuRead_ppu_fb (a : Addr) (s : State) : (cpuRead a s).state.ppu.fb = s.ppu.fb := by rw [cpuRead, busRead_changes]

@[simp] theorem busWrite_cfg (a : Addr) (v : Byte) (s : State) : (busWrite a v s).cfg = s.cfg := by rw [busWrite_changes]
@[simp] theorem busWrite_cpu (a : Addr) (v : Byte) (s : State) : (busWrite a v s).cpu = s.cpu := by rw [busWrite_changes]
@[simp] theorem busWrite_dma (a : Addr) (v : Byte) (s : State) : (busWrite a v s).dma = s.dma := by rw [busWrite_changes]
@[simp] theorem busWrite_reports (a : Addr) (v : Byte) (s : State) : (busWrite a v s).reports = s.reports := by rw [busWrite_changes]
@[simp] theorem busWrite_floatReads (a : Addr) (v : Byte) (s : State) : (busWrite a v s).floatReads = s.floatReads := by rw [busWrite_changes]
@[simp] theorem busWrite_ppu_status (a : Addr) (v : Byte) (s : State) : (busWrite a v s).ppu.status = s.ppu.status := by rw [busWrite_changes]
@[simp] theorem busWrite_ppu_dot (a : Addr) (v : Byte) (s : State) : (busWrite a v s).ppu.dot = s.ppu.dot := by rw [busWrite_changes]
@[simp] theorem busWrite_ppu_scanline (a : Addr) (v : Byte) (s : State) : (busWrite a v s).ppu.scanline = s.ppu.scanline := by rw [busWrite_changes]
@[simp] theorem busWrite_ppu_frame (a : Addr) (v : Byte) (s : State) : (busWrite a v s).ppu.frame = s.ppu.frame := by rw [busWrite_changes]
@[simp] theorem busWrite_ppu_frameReady (a : Addr) (v : Byte) (s : State) : (busWrite a v s).ppu.frameReady = s.ppu.frameReady := by rw [busWrite_changes]
@[simp] theorem busWrite_ppu_fb (a : Addr) (v : Byte) (s : State) : (busWrite a v s).ppu.fb = s.ppu.fb := by rw [busWrite_changes]

theorem internalWrite_changes (a : Addr) (v : Byte) (s : State) :
    internalWrite a v s = { s with dma := (internalWrite a v s).dma, reports := (internalWrite a v s).reports } := by
  rw [internalWrite]
  split <;> rfl

/-- All that the interception adds to the bus write. -/
theorem cpuWrite_changes (a : Addr) (v : Byte) (s : State) :
    cpuWrite a v s =
      { busWrite a v s with dma := (cpuWrite a v s).dma, reports := (cpuWrite a v s).reports } := by
  rw [cpuWrite]
  simp only
  split
  · conv => lhs; rw [internalWrite_changes]
  · rfl

@[simp] theorem cpuWrite_cfg (a : Addr) (v : Byte) (s : State) : (cpuWrite a v s).cfg = s.cfg := by
  rw [cpuWrite_changes]
  exact busWrite_cfg a v s
@[simp] theorem cpuWrite_cpu (a : Addr) (v : Byte) (s : State) : (cpuWrite a v s).cpu = s.cpu := by
  rw [cpuWrite_changes]
  exact busWrite_cpu a v s
@[simp] theorem cpuWrite_floatReads (a : Addr) (v : Byte) (s : State) : (cpuWrite a v s).floatReads = s.floatReads := by
  rw [cpuWrite_changes]
  exact busWrite_floatReads a v s
theorem cpuWrite_ram (a : Addr) (v : Byte) (s : State) : (cpuWrite a v s).ram = (busWrite a v s).ram := by
  rw [cpuWrite_changes]
theorem cpuWrite_vram (a : Addr) (v : Byte) (s : State) : (cpuWrite a v s).vram = (busWrite a v s).vram := by
  rw [cpuWrite_changes]
theorem cpuWrite_ppu (a : Addr) (v : Byte) (s : State) : (cpuWrite a v s).ppu = (busWrite a v s).ppu := by
  rw [cpuWrite_changes]
theorem cpuWrite_mainBus (a : Addr) (v : Byte) (s : State) : (cpuWrite a v s).mainBus = (busWrite a v s).mainBus := by
  rw [cpuWrite_changes]
theorem cpuWrite_picBus (a : Addr) (v : Byte) (s : State) : (cpuWrite a v s).picBus = (busWrite a v s).picBus := by
  rw [cpuWrite_changes]

@[simp] theorem cpuWrite_ppu_status (a : Addr) (v : Byte) (s : State) : (cpuWrite a v s).ppu.status = s.ppu.status := by
  rw [cpuWrite_ppu, busWrite_ppu_status]
@[simp] theorem cpuWrite_ppu_dot (a : Addr) (v : Byte) (s : State) : (cpuWrite a v s).ppu.dot = s.ppu.dot := by
  rw [cpuWrite_ppu, busWrite_ppu_dot]
@[simp] theorem cpuWrite_ppu_scanline (a : Addr) (v : Byte) (s : State) : (cpuWrite a v s).ppu.scanline = s.ppu.scanline := by
  rw [cpuWrite_ppu, busWrite_ppu_scanline]
@[simp] theorem cpuWrite_ppu_frame (a : Addr) (v : Byte) (s : State) : (cpuWrite a v s).ppu.frame = s.ppu.frame := by
  rw [cpuWrite_ppu, busWrite_ppu_frame]
@[simp] theorem cpuWrite_ppu_frameReady (a : Addr) (v : Byte) (s : State) : (cpuWrite a v s).ppu.frameReady = s.ppu.frameReady := by
  rw [cpuWrite_ppu, busWrite_ppu_frameReady]
@[simp] theorem cpuWrite_ppu_fb (a : Addr) (v : Byte) (s : State) : (cpuWrite a v s).ppu.fb = s.ppu.fb := by
  rw [cpuWrite_ppu, busWrite_ppu_fb]

theorem cpuWrite_dma {a : Addr} (h : a ≠ 0x4014) (v : Byte) (s : State) : (cpuWrite a v s).dma = s.dma := by
  simp only [cpuWrite, internalWrite, if_neg h, reportInternal]
  split <;> simp

theorem cpuWrite_reports {a : Addr} (h : a.toNat < 0x4000 ∨ 0x401F < a.toNat ∨ a = 0x4014) (v : Byte) (s : State) :
    (cpuWrite a v s).reports = s.reports := by
  simp only [cpuWrite]
  split
  · rename_i hi
    have hr := (isInternal_iff a).1 hi
    have h4 : a = 0x4014 := by
      rcases h with h | h | h
      · omega
      · omega
      · exact h
    rw [internalWrite, if_pos h4]
    exact busWrite_reports a v s
  · exact busWrite_reports a v s

/-! ### The accesses after a change of the processor's registers -/

theorem PpuReg.read_mapCpu (r : PpuReg) (f : Cpu → Cpu) (s : State) :
    r.read (s.mapCpu f) = { value := (r.read s).value, state := (r.read s).state.mapCpu f } := by
  cases r <;> try rfl
  simp only [PpuReg.read, picRead_eq]
  rfl

theorem floating_mapCpu (f : Cpu → Cpu) (s : State) :
    floating (s.mapCpu f) = { value := (floating s).value, state := (floating s).state.mapCpu f } := by
  simp only [floating, State.mapCpu_cfg]
  split <;> rfl

theorem busRead_mapCpu (a : Addr) (f : Cpu → Cpu) (s : State) :
    busRead a (s.mapCpu f) = { value := (busRead a s).value, state := (busRead a s).state.mapCpu f } := by
  simp only [busRead_state, PpuReg.read_mapCpu, floating_mapCpu, State.mapCpu_cfg, State.mapCpu_ram]
  split
  · rfl
  · split
    · rfl
    · split <;> rfl

theorem PpuReg.write_mapCpu (r : PpuReg) (b : Byte) (f : Cpu → Cpu) (s : State) :
    r.write b (s.mapCpu f) = (r.write b s).mapCpu f := by
  cases r <;> try rfl
  simp only [PpuReg.write, picWrite_eq]
  rfl

theorem busWrite_mapCpu (a : Addr) (v : Byte) (f : Cpu → Cpu) (s : State) :
    busWrite a v (s.mapCpu f) = (busWrite a v s).mapCpu f := by
  rw [busWrite_eq, busWrite_eq]
  simp only
  split
  · rw [← PpuReg.write_mapCpu]
    rfl
  · rfl

theorem cpuWrite_mapCpu (a : Addr) (v : Byte) (f : Cpu → Cpu) (s : State) :
    cpuWrite a v (s.mapCpu f) = (cpuWrite a v s).mapCpu f := by
  simp only [cpuWrite, busWrite_mapCpu]
  split
  · simp only [internalWrite]
    split <;> rfl
  · rfl

end Sys2Proof.Machine
end

