-- ==== Sys2Proof/Laws/Ops.lean ====
section
/-! SUPPORT. The named operations in closed form: the modes, the stack, the handlers, the access classes. -/

namespace Sys2Proof.Machine

theorem add_one_pic (v : PicAddr) (k : Nat) (h : k < 16384) :
    v + BitVec.ofNat 14 k = BitVec.ofNat 14 (v.toNat + k) := by
  apply BitVec.eq_of_toNat_eq
  simp [Nat.mod_eq_of_lt h]

theorem advanceV_eq (p : Ppu) :
    p.advanceV = { p with v := BitVec.ofNat 14 (p.v.toNat + if p.ctrl.getLsbD 2 then 32 else 1) } := by
  have e : p.v + (if p.inc32 then 32#14 else 1#14) =
      BitVec.ofNat 14 (p.v.toNat + if p.ctrl.getLsbD 2 then 32 else 1) := by
    rw [Ppu.inc32]
    split
    · exact add_one_pic p.v 32 (by decide)
    · exact add_one_pic p.v 1 (by decide)
  rw [Ppu.advanceV, e]

/-! ### Modes -/

theorem zext16_lt (b : Byte) : (zext16 b).toNat < 0x2000 := by
  have := b.isLt
  rw [toNat_zext16]
  omega

theorem zext16_mod (b : Byte) : (zext16 b).toNat % 2048 = b.toNat := by
  have := b.isLt
  rw [toNat_zext16]
  omega

theorem zeroPagePointer_eq (z : Byte) (s : State) :
    zeroPagePointer z s =
      { value := wordOf (Memory.read s.ram z.toNat) (Memory.read s.ram ((z.toNat + 1) % 256)),
        state := { s with
          mainBus := readLatch (zext16 (z + 1)) (Memory.read s.ram ((z.toNat + 1) % 256)) } } := by
  have hz : (zext16 (z + 1)).toNat % 2048 = (z.toNat + 1) % 256 := by
    rw [zext16_mod, BitVec.toNat_add]
    rfl
  simp only [zeroPagePointer, cpuRead, busRead_of_ram (zext16_lt _), zext16_mod z, hz]

@[simp] theorem zeroPagePointer_cpu (z : Byte) (s : State) : (zeroPagePointer z s).state.cpu = s.cpu := by
  rw [zeroPagePointer_eq]

/-- All that a mode's own accesses change is the main-bus latches. -/
theorem locate_changes (m : MemMode) (s : State) :
    (locate m s).state = { s with mainBus := (locate m s).state.mainBus } := by
  cases m <;> first | rfl | (simp only [locate, indexed, zeroPagePointer_eq])

theorem crossed_eq (base : Addr) (index : Byte) :
    pageDiffers (base + zext16 index) base = decide (256 ≤ base.toNat % 256 + index.toNat) := by
  have hb := base.isLt
  have hi := index.isLt
  rw [pageDiffers_eq, BitVec.toNat_add, toNat_zext16, decide_eq_decide]
  omega

theorem add_zext16 (base : Addr) (index : Byte) :
    base + zext16 index = BitVec.ofNat 16 (base.toNat + index.toNat) := by
  apply BitVec.eq_of_toNat_eq
  rw [BitVec.toNat_add, toNat_zext16, BitVec.toNat_ofNat]

theorem indexed_eq (base : Addr) (index : Byte) (s : State) :
    indexed base index s =
      { ea := BitVec.ofNat 16 (base.toNat + index.toNat),
        crossed := decide (256 ≤ base.toNat % 256 + index.toNat), state := s } := by
  rw [indexed, crossed_eq, add_zext16]

@[simp] theorem locate_cfg (m : MemMode) (s : State) : (locate m s).state.cfg = s.cfg := by rw [locate_changes]
@[simp] theorem locate_cpu (m : MemMode) (s : State) : (locate m s).state.cpu = s.cpu := by rw [locate_changes]
@[simp] theorem locate_picBus (m : MemMode) (s : State) : (locate m s).state.picBus = s.picBus := by rw [locate_changes]
@[simp] theorem locate_ram (m : MemMode) (s : State) : (locate m s).state.ram = s.ram := by rw [locate_changes]
@[simp] theorem locate_vram (m : MemMode) (s : State) : (locate m s).state.vram = s.vram := by rw [locate_changes]
@[simp] theorem locate_dma (m : MemMode) (s : State) : (locate m s).state.dma = s.dma := by rw [locate_changes]
@[simp] theorem locate_ppu (m : MemMode) (s : State) : (locate m s).state.ppu = s.ppu := by rw [locate_changes]
@[simp] theorem locate_reports (m : MemMode) (s : State) : (locate m s).state.reports = s.reports := by rw [locate_changes]
@[simp] theorem locate_floatReads (m : MemMode) (s : State) : (locate m s).state.floatReads = s.floatReads := by rw [locate_changes]

/-! ### Stack -/

theorem stackAddr_lt (b : Byte) : (stackAddr b).toNat < 0x2000 := by
  have := b.isLt
  rw [toNat_stackAddr]
  omega

theorem stackAddr_mod (b : Byte) : (stackAddr b).toNat % 2048 = 256 + b.toNat := by
  have := b.isLt
  rw [toNat_stackAddr]
  omega

/-- A push, in closed form. -/
theorem push_eq (v : Byte) (s : State) :
    push v s =
      { s with
        ram := Memory.write s.ram (256 + s.cpu.s.toNat) v
        mainBus := writeLatch (stackAddr s.cpu.s) v
        cpu := { s.cpu with s := s.cpu.s - 1 } } := by
  rw [push, cpuWrite_of_ram (stackAddr_lt _), stackAddr_mod]
  rfl

/-- A pop, in closed form. -/
theorem pop_eq (s : State) :
    pop s =
      let v := Memory.read s.ram (256 + (s.cpu.s + 1).toNat)
      { value := v,
        state := { s with
          mainBus := readLatch (stackAddr (s.cpu.s + 1)) v
          cpu := { s.cpu with s := s.cpu.s + 1 } } } := by
  simp only [pop, State.mapCpu, Cpu.writeS, cpuRead, busRead_of_ram (stackAddr_lt _), stackAddr_mod]

theorem pushWord_eq (a : Addr) (s : State) :
    pushWord a s =
      { s with
        ram := Memory.write (Memory.write s.ram (256 + s.cpu.s.toNat) (hiByte a)) (256 + (s.cpu.s - 1).toNat) (loByte a)
        mainBus := writeLatch (stackAddr (s.cpu.s - 1)) (loByte a)
        cpu := { s.cpu with s := s.cpu.s - 1 - 1 } } := by
  rw [pushWord, push_eq, push_eq]

theorem popWord_eq (s : State) :
    popWord s =
      let lo := Memory.read s.ram (256 + (s.cpu.s + 1).toNat)
      let hi := Memory.read s.ram (256 + (s.cpu.s + 1 + 1).toNat)
      { value := wordOf lo hi,
        state := { s with
          mainBus := readLatch (stackAddr (s.cpu.s + 1 + 1)) hi
          cpu := { s.cpu with s := s.cpu.s + 1 + 1 } } } := by
  simp only [popWord, pop_eq]

/-! ### Handlers -/

/-- A word read from two program ROM addresses. -/
theorem read16_rom (a : Addr) (h : 0x8000 ≤ a.toNat) (h' : a.toNat < 0xFFFF) (s : State) :
    read16 a s =
      let lo := Memory.read s.cfg.prg (a.toNat % s.cfg.prgSize.bytes)
      let hi := Memory.read s.cfg.prg ((a.toNat + 1) % s.cfg.prgSize.bytes)
      { value := wordOf lo hi, state := { s with mainBus := readLatch (BitVec.ofNat 16 (a.toNat + 1)) hi } } := by
  have e : a + 1 = BitVec.ofNat 16 (a.toNat + 1) := by
    apply BitVec.eq_of_toNat_eq
    rw [BitVec.toNat_add, BitVec.toNat_ofNat]
    rfl
  have hn : (BitVec.ofNat 16 (a.toNat + 1)).toNat = a.toNat + 1 := by
    rw [BitVec.toNat_ofNat]
    omega
  have h1 : a.getLsbD 15 = true := by
    have := a.isLt
    rw [bit15_iff]
    omega
  have h2 : (BitVec.ofNat 16 (a.toNat + 1)).getLsbD 15 = true := by
    rw [bit15_iff, hn]
    omega
  simp only [read16, cpuRead, e, busRead_of_rom h1, busRead_of_rom h2, hn]

theorem byte_sub_one (b : Byte) : b - 1 = BitVec.ofNat 8 (b.toNat + 255) := by
  apply BitVec.eq_of_toNat_eq
  have := b.isLt
  rw [BitVec.toNat_sub, BitVec.toNat_ofNat]
  show (256 - 1 + b.toNat) % 256 = _
  omega

theorem byte_add_one (b : Byte) : b + 1 = BitVec.ofNat 8 (b.toNat + 1) := by
  apply BitVec.eq_of_toNat_eq
  rw [BitVec.toNat_add, BitVec.toNat_ofNat]
  rfl

theorem byte_ofNat_sub (b : Byte) (k : Nat) : BitVec.ofNat 8 (b.toNat + k) - 1 = BitVec.ofNat 8 (b.toNat + (k + 255)) := by
  rw [byte_sub_one]
  apply BitVec.eq_of_toNat_eq
  simp only [BitVec.toNat_ofNat]
  omega

theorem byte_ofNat_add (b : Byte) (k : Nat) : BitVec.ofNat 8 (b.toNat + k) + 1 = BitVec.ofNat 8 (b.toNat + (k + 1)) := by
  rw [byte_add_one]
  apply BitVec.eq_of_toNat_eq
  simp only [BitVec.toNat_ofNat]
  omega

theorem byte_ofNat_reduce (b : Byte) (k : Nat) : BitVec.ofNat 8 (b.toNat + (k + 256)) = BitVec.ofNat 8 (b.toNat + k) := by
  apply BitVec.eq_of_toNat_eq
  simp only [BitVec.toNat_ofNat]
  omega

theorem hiByte_eq (a : Addr) : hiByte a = BitVec.ofNat 8 (a.toNat / 256) := by
  apply BitVec.eq_of_toNat_eq
  have := a.isLt
  rw [toNat_hiByte, BitVec.toNat_ofNat]
  omega

theorem loByte_eq (a : Addr) : loByte a = BitVec.ofNat 8 a.toNat := by
  apply BitVec.eq_of_toNat_eq
  rw [toNat_loByte, BitVec.toNat_ofNat]

/-- A handler entry, in the closed form the statements use. -/
theorem enterHandler_eq (ret vector : Addr) (setI : Bool) (h : 0x8000 ≤ vector.toNat) (h' : vector.toNat < 0xFFFF)
    (s : State) :
    enterHandler ret setI vector s =
      (entered ret vector.toNat s).mapCpu fun c => if setI then c.putFlag .I true else c := by
  have e1 : s.cpu.s - 1 = BitVec.ofNat 8 (s.cpu.s.toNat + 255) := byte_sub_one _
  have e2 : BitVec.ofNat 8 (s.cpu.s.toNat + 255) - 1 = BitVec.ofNat 8 (s.cpu.s.toNat + 254) :=
    (byte_ofNat_sub _ 255).trans (byte_ofNat_reduce _ 254)
  have e3 : BitVec.ofNat 8 (s.cpu.s.toNat + 254) - 1 = BitVec.ofNat 8 (s.cpu.s.toNat + 253) :=
    (byte_ofNat_sub _ 254).trans (byte_ofNat_reduce _ 253)
  cases setI <;>
    simp only [enterHandler, pushWord_eq, push_eq, read16_rom vector h h', State.mapCpu, Cpu.setPC, entered,
      Cpu.status, Cpu.putFlag, if_true, if_false, e1, e2, e3, Bool.false_eq_true, hiByte_eq, loByte_eq, wordOf_eq]

/-- A return from a handler, in closed form. -/
theorem leaveHandler_eq (s : State) :
    leaveHandler s =
      let p := Memory.read s.ram (256 + (s.cpu.s + 1).toNat)
      let lo := Memory.read s.ram (256 + (s.cpu.s + 1 + 1).toNat)
      let hi := Memory.read s.ram (256 + (s.cpu.s + 1 + 1 + 1).toNat)
      { s with
        mainBus := readLatch (stackAddr (s.cpu.s + 1 + 1 + 1)) hi
        cpu := { s.cpu with p := p ||| 0x30, s := s.cpu.s + 1 + 1 + 1, pc := wordOf lo hi } } := by
  simp only [leaveHandler, pop_eq, popWord_eq, State.mapCpu, Cpu.setStatus, Cpu.setPC]

/-! ### Access classes -/

theorem finish_eq (op : Byte) (penalty : Nat) (s : State) :
    finish op penalty s = .next { s with cpu := { s.cpu with pending := cyclesOf s.cfg op + penalty - 1 } } := rfl

/-- What a read-class form in a memory mode answers. -/
theorem readMem_eq (op : Byte) (m : MemMode) (f : Byte → Cpu → Cpu) (s : State) :
    readMem op m f s =
      let r := cpuRead (locate m s).ea (locate m s).state
      .next { r.state with
        cpu := { f r.value s.cpu with pending := cyclesOf s.cfg op + (locate m s).crossed.toNat - 1 } } := by
  simp only [readMem, finish, State.mapCpu, cpuRead_cpu, cpuRead_cfg, locate_cpu, locate_cfg]

/-- What a write-class form answers. -/
theorem writeMem_eq (op : Byte) (m : MemMode) (reg : Cpu → Byte) (s : State) :
    writeMem op m reg s =
      .next { cpuWrite (locate m s).ea (reg s.cpu) (locate m s).state with
        cpu := { s.cpu with pending := cyclesOf s.cfg op + 0 - 1 } } := by
  simp only [writeMem, finish, State.mapCpu, cpuWrite_cpu, cpuWrite_cfg, locate_cpu, locate_cfg]

/-- What a read-modify-write form answers. -/
theorem modifyMem_eq (op : Byte) (m : MemMode) (f : Byte → Cpu → Modified) (s : State) :
    modifyMem op m f s =
      let r := cpuRead (locate m s).ea (locate m s).state
      let k := f r.value s.cpu
      .next { cpuWrite (locate m s).ea k.result r.state with
        cpu := { k.cpu.setNZ k.result with pending := cyclesOf s.cfg op + 0 - 1 } } := by
  simp only [modifyMem, finish, cpuWrite_mapCpu, State.mapCpu_cfg, cpuWrite_cfg, locate_cpu, locate_cfg,
    cpuRead_cpu, cpuRead_cfg]
  simp only [State.mapCpu, cpuWrite_cfg, cpuRead_cfg, locate_cfg]

end Sys2Proof.Machine
end

