-- ==== Sys2Proof/Laws/Exec.lean ====
section
/-! SUPPORT. What `exec` answers, by access class: one lemma for each class, over all its forms. -/

namespace Sys2Proof.Machine

/-- The operation of a read-class mnemonic. -/
def readOp (m : Mnemonic) : Option (Byte → Cpu → Cpu) :=
  match m with
  | .lda => some lda
  | .ldx => some ldx
  | .ldy => some ldy
  | .adc => some adc
  | .sbc => some sbc
  | .and => some andA
  | .ora => some oraA
  | .eor => some eorA
  | .cmp => some cmpA
  | .cpx => some cmpX
  | .cpy => some cmpY
  | .bit => some bitTest
  | _ => none

/-- The register a write-class mnemonic stores. -/
def storeOp (m : Mnemonic) : Option (Cpu → Byte) :=
  match m with
  | .sta => some Cpu.a
  | .stx => some Cpu.x
  | .sty => some Cpu.y
  | _ => none

/-- The operation of a read-modify-write mnemonic. -/
def modifyOp (m : Mnemonic) : Option (Byte → Cpu → Modified) :=
  match m with
  | .inc => some inc
  | .dec => some dec
  | .asl => some asl
  | .lsr => some lsr
  | .rol => some rol
  | .ror => some ror
  | _ => none

/-- The shape of a read-class form: mode IMM or a memory mode. -/
def readForm (i : Instr) (f : Byte → Cpu → Cpu) (s : State) : Operand → Prop
  | .imm b => exec i s = readImm i.opcode b f s
  | .mem m => exec i s = readMem i.opcode m f s
  | _ => False

theorem read_shape (i : Instr) (f : Byte → Cpu → Cpu) (h : readOp i.mnemonic = some f) (s : State) :
    readForm i f s i.operand := by
  cases i <;> cases h <;> rfl

/-- The shape of a write-class form: a memory mode. -/
def storeForm (i : Instr) (reg : Cpu → Byte) (s : State) : Operand → Prop
  | .mem m => exec i s = writeMem i.opcode m reg s
  | _ => False

theorem store_shape (i : Instr) (reg : Cpu → Byte) (h : storeOp i.mnemonic = some reg) (s : State) :
    storeForm i reg s i.operand := by
  cases i <;> cases h <;> rfl

/-- The shape of a read-modify-write form: the accumulator or a memory mode. -/
def modifyForm (i : Instr) (f : Byte → Cpu → Modified) (s : State) : Operand → Prop
  | .acc => exec i s = modifyAcc i.opcode f s
  | .mem m => exec i s = modifyMem i.opcode m f s
  | _ => False

theorem modify_shape (i : Instr) (f : Byte → Cpu → Modified) (h : modifyOp i.mnemonic = some f) (s : State) :
    modifyForm i f s i.operand := by
  cases i <;> cases h <;> rfl

/-- Every read-class form, in every mode: the operand is read, the operation changes the processor, the
latency is owed. -/
theorem exec_read (i : Instr) (f : Byte → Cpu → Cpu) (h : readOp i.mnemonic = some f) (s : State) :
    ∃ r, sourceOf i s = some r ∧ r.state.cpu = s.cpu ∧ r.state.cfg = s.cfg ∧
      exec i s = .next { r.state with cpu := { f r.value s.cpu with pending := owed i r.crossed.toNat s } } := by
  have he := read_shape i f h s
  rw [sourceOf]
  generalize i.operand = o at he ⊢
  cases o with
  | imm b => exact ⟨_, rfl, rfl, rfl, he⟩
  | mem m => exact ⟨_, rfl, by simp, by simp, he.trans (readMem_eq ..)⟩
  | imp | acc | ind _ | rel _ => exact he.elim

/-- Every write-class form. -/
theorem exec_store (i : Instr) (reg : Cpu → Byte) (h : storeOp i.mnemonic = some reg) (s : State) :
    ∃ m, i.operand = .mem m ∧
      exec i s = .next { cpuWrite (locate m s).ea (reg s.cpu) (locate m s).state with
        cpu := { s.cpu with pending := owed i 0 s } } := by
  have he := store_shape i reg h s
  generalize i.operand = o at he ⊢
  cases o with
  | mem m => exact ⟨m, rfl, he.trans (writeMem_eq ..)⟩
  | imp | acc | imm _ | ind _ | rel _ => exact he.elim

/-- Every read-modify-write form, in the accumulator or in memory. -/
theorem exec_modify (i : Instr) (f : Byte → Cpu → Modified) (h : modifyOp i.mnemonic = some f) (s : State) :
    (i.operand = .acc ∧
      let k := f s.cpu.a s.cpu
      exec i s = .next { s with cpu := { Cpu.writeA k.result k.cpu with pending := owed i 0 s } }) ∨
    ∃ m, i.operand = .mem m ∧
      let r := cpuRead (locate m s).ea (locate m s).state
      let k := f r.value s.cpu
      exec i s = .next { cpuWrite (locate m s).ea k.result r.state with
        cpu := { k.cpu.setNZ k.result with pending := owed i 0 s } } := by
  have he := modify_shape i f h s
  generalize i.operand = o at he ⊢
  cases o with
  | acc => exact Or.inl ⟨rfl, he⟩
  | mem m => exact Or.inr ⟨m, rfl, he.trans (modifyMem_eq ..)⟩
  | imp | imm _ | ind _ | rel _ => exact he.elim

/-! ### Branches -/

theorem add_sext16 (a : Addr) (d : Byte) : a + sext16 d = BitVec.ofInt 16 (a.toNat + d.toInt) := by
  apply BitVec.eq_of_toInt_eq
  rw [BitVec.toInt_add, BitVec.toInt_ofInt, sext16, BitVec.toInt_signExtend_of_le (by decide),
    BitVec.toInt_eq_toNat_bmod a, Int.bmod_add_bmod]

/-- What a branch answers. -/
theorem branch_eq (op : Byte) (taken : Bool) (d : Byte) (s : State) :
    branch op taken d s =
      let target := BitVec.ofInt 16 (s.cpu.pc.toNat + d.toInt)
      .next
        (if taken then
          { s with
            cpu := { s.cpu with
              pc := target
              pending :=
                cyclesOf s.cfg op + (if target.toNat / 256 = s.cpu.pc.toNat / 256 then 1 else 2) - 1 } }
        else { s with cpu := { s.cpu with pending := cyclesOf s.cfg op + 0 - 1 } }) := by
  have e : ∀ t : Addr, 1 + (pageDiffers t s.cpu.pc).toNat =
      if t.toNat / 256 = s.cpu.pc.toNat / 256 then 1 else 2 := fun t => by
    rw [pageDiffers_eq]
    by_cases h : t.toNat / 256 = s.cpu.pc.toNat / 256 <;> simp [h]
  cases taken
  · rfl
  · simp only [branch, add_sext16, if_true, e]
    rfl

/-- A branch changes `PC` and `pending` only. -/
theorem branch_changes {op : Byte} {taken : Bool} {d : Byte} {s t : State} (h : branch op taken d s = .next t) :
    ∃ pc pending, t = { s with cpu := { s.cpu with pc := pc, pending := pending } } := by
  cases taken <;> (cases h; exact ⟨_, _, rfl⟩)

theorem branch_next (op : Byte) (taken : Bool) (d : Byte) (s : State) : ∃ t, branch op taken d s = .next t :=
  ⟨_, branch_eq ..⟩

/-- `exec` answers a next state, whatever the instruction and the state. -/
theorem exec_next (i : Instr) (s : State) : ∃ t, exec i s = .next t := by
  cases i
  case bpl | bmi | bvc | bvs | bcc | bcs | bne | beq => exact branch_next ..
  all_goals exact ⟨_, rfl⟩

/-! ### Which registers the operations write -/

theorem readOp_registers {m : Mnemonic} {f : Byte → Cpu → Cpu} (h : readOp m = some f) (v : Byte) (c : Cpu) :
    (m ∉ [Mnemonic.lda, .adc, .sbc, .and, .ora, .eor] → (f v c).a = c.a) ∧ (m ≠ .ldx → (f v c).x = c.x) ∧
    (m ≠ .ldy → (f v c).y = c.y) ∧ (f v c).s = c.s ∧ (f v c).pc = c.pc ∧ (f v c).halt = c.halt := by
  cases m <;> cases h <;> refine ⟨fun h => ?_, fun h => ?_, fun h => ?_, rfl, rfl, rfl⟩ <;> first
    | rfl
    | exact absurd rfl h
    | exact absurd (by decide) h

theorem modifyOp_registers {m : Mnemonic} {f : Byte → Cpu → Modified} (h : modifyOp m = some f) (v : Byte) (c : Cpu) :
    (f v c).cpu.a = c.a ∧ (f v c).cpu.x = c.x ∧ (f v c).cpu.y = c.y ∧ (f v c).cpu.s = c.s ∧
    (f v c).cpu.pc = c.pc ∧ (f v c).cpu.halt = c.halt := by
  cases m <;> cases h <;> exact ⟨rfl, rfl, rfl, rfl, rfl, rfl⟩

/-- The flags a shift or rotate leaves for `SetNZ` to finish, with the moved bit in the carry. -/
theorem shifted_eq (r : Byte) (co : Bool) (c : Cpu) :
    (shifted r co c).cpu.setNZ (shifted r co c).result = { c with p := withNZC r co c.p } := by
  simp only [shifted, setNZ_eq, Cpu.putFlag, Flag.bit, withNZ_putC]

/-- The operation of a shift or rotate, as bit strings. -/
theorem shift_eq {m : Mnemonic} {f : Byte → Cpu → Modified} (hm : m ∈ [Mnemonic.asl, .lsr, .rol, .ror])
    (h : modifyOp m = some f) (v : Byte) (c : Cpu) :
    f v c = shifted (shiftResult m v (c.p.getLsbD 0)).1 (shiftResult m v (c.p.getLsbD 0)).2 c := by
  simp only [List.mem_cons, List.not_mem_nil, or_false] at hm
  rcases hm with rfl | rfl | rfl | rfl <;> cases h
  · simp only [asl, shiftResult, shiftLeft_eq]
  · simp only [lsr, shiftResult, shiftRight_eq]
  · simp only [rol, shiftResult, Cpu.flag, flagOf, Flag.bit, rotateLeft_eq]
  · simp only [ror, shiftResult, Cpu.flag, flagOf, Flag.bit, rotateRight_eq]

end Sys2Proof.Machine
end

