-- ==== Sys2Proof/Laws/Ppu.lean ====
section
/-! SUPPORT. The Picture Unit's dot: what a produced pixel, an interrupt entry, a frame wrap and the counters' advance change. -/

namespace Sys2Proof.Machine

theorem colourIndex_eq (p1 p0 : Byte) (b : Nat) :
    (BitVec.ofBool (p1.getLsbD b) ++ BitVec.ofBool (p0.getLsbD b) : BitVec 2) =
      BitVec.ofNat 2 (2 * (p1.getLsbD b).toNat + (p0.getLsbD b).toNat) := by
  cases p1.getLsbD b <;> cases p0.getLsbD b <;> rfl

/-- A produced pixel changes the picture-bus latches and the frame buffer only. -/
theorem producePixel_changes (x y : Nat) (s : State) :
    producePixel x y s = { s with
      picBus := (producePixel x y s).picBus
      ppu := { s.ppu with fb := (producePixel x y s).ppu.fb } } := by
  simp only [producePixel, picRead_eq, State.mapPpu]

theorem halted_iff (s : State) : s.halted = true ↔ s.cpu.halt ≠ none := by
  rw [State.halted]
  cases s.cpu.halt <;> simp

theorem nmi_halted {s : State} (h : s.cpu.halt ≠ none) : nmi s = s := by
  rw [nmi, if_pos ((halted_iff s).2 h)]

theorem nmi_running {s : State} (h : s.cpu.halt = none) :
    nmi s = { entered s.cpu.pc 0xFFFA s with
      cpu := { (entered s.cpu.pc 0xFFFA s).cpu with pending := s.cpu.pending + s.cfg.nmiCycles } } := by
  have hn : ¬ s.halted = true := by
    rw [halted_iff]
    exact fun hh => hh h
  rw [nmi, if_neg hn, enterHandler_eq _ nmiVector false (by decide) (by decide)]
  rfl

/-- An interrupt entry does not touch the Picture Unit, nor does the Picture Unit's state change it. -/
theorem nmi_mapPpu (f : Ppu → Ppu) (s : State) : nmi (s.mapPpu f) = (nmi s).mapPpu f := by
  by_cases h : s.cpu.halt = none
  · rw [nmi_running h, nmi_running (s := s.mapPpu f) h]
    rfl
  · rw [nmi_halted h, nmi_halted (s := s.mapPpu f) h]

/-- A frame wrap: the three fields, then the enabled interrupt. -/
theorem frameWrap_eq (s : State) :
    frameWrap s =
      let q := s.mapPpu fun p => { p with status := p.status ||| 0x80, frame := p.frame + 1, frameReady := true }
      if s.ppu.ctrl.getLsbD 7 then nmi q else q := by
  simp only [frameWrap, Ppu.nmiEnable, Ppu.putVblank, putBit7_true]

theorem frameWrap_scanline (n : Nat) (s : State) :
    frameWrap (s.mapPpu fun p => { p with scanline := n }) =
      (frameWrap s).mapPpu fun p => { p with scanline := n } := by
  let q := s.mapPpu fun p => { p.putVblank true with frame := p.frame + 1, frameReady := true }
  have e1 : frameWrap s = if s.ppu.nmiEnable then nmi q else q := rfl
  have e2 : frameWrap (s.mapPpu fun p => { p with scanline := n }) =
      if s.ppu.nmiEnable then nmi (q.mapPpu fun p => { p with scanline := n })
      else q.mapPpu fun p => { p with scanline := n } := rfl
  rw [e1, e2]
  cases s.ppu.nmiEnable
  · rfl
  · simp only [if_true, nmi_mapPpu]

/-- The three ways the counters advance, from counters in range. -/
theorem advanceDot_eq {s : State} (hd : s.ppu.dot ≤ 340) (hs : s.ppu.scanline ≤ 261) :
    advanceDot s =
      if s.ppu.dot < 340 then s.mapPpu fun p => { p with dot := p.dot + 1 }
      else if s.ppu.scanline < 261 then s.mapPpu fun p => { p with dot := 0, scanline := p.scanline + 1 }
      else frameWrap (s.mapPpu fun p => { p with dot := 0, scanline := 0 }) := by
  by_cases h : s.ppu.dot < 340
  · rw [advanceDot, if_neg (by omega), if_pos h]
  · by_cases h' : s.ppu.scanline < 261
    · rw [advanceDot, if_pos (by omega), if_neg (by omega), if_neg h, if_pos h']
    · rw [advanceDot, if_pos (by omega), if_pos (by omega), if_neg h, if_neg h', ← frameWrap_scanline]
      rfl

theorem rendering_iff (p : Ppu) :
    p.rendering = true ↔ p.mask.getLsbD 3 = true ∧ p.scanline < 240 ∧ p.dot < 256 := by
  simp only [Ppu.rendering, Ppu.bgEnable, Bool.and_eq_true, decide_eq_true_eq, and_assoc]

/-! ### What a dot leaves alone -/

theorem nmi_keeps (s : State) :
    (nmi s).cfg = s.cfg ∧ (nmi s).ppu = s.ppu ∧ (nmi s).dma = s.dma ∧ (nmi s).vram = s.vram ∧
    (nmi s).cpu.halt = s.cpu.halt := by
  by_cases h : s.cpu.halt = none
  · rw [nmi_running h]
    exact ⟨rfl, rfl, rfl, rfl, rfl⟩
  · rw [nmi_halted h]
    exact ⟨rfl, rfl, rfl, rfl, rfl⟩

theorem frameWrap_keeps (s : State) :
    (frameWrap s).cfg = s.cfg ∧ (frameWrap s).dma = s.dma ∧
    (s.cpu.halt ≠ none → (frameWrap s).cpu = s.cpu ∧ (frameWrap s).ram = s.ram) ∧
    (frameWrap s).ppu =
      { s.ppu with status := s.ppu.status ||| 0x80, frame := s.ppu.frame + 1, frameReady := true } := by
  rw [frameWrap_eq]
  simp only
  split
  · have k := nmi_keeps
      (s.mapPpu fun p => { p with status := p.status ||| 0x80, frame := p.frame + 1, frameReady := true })
    exact ⟨k.1, k.2.2.1, fun h => by rw [nmi_halted (by exact h)]; exact ⟨rfl, rfl⟩, k.2.1⟩
  · exact ⟨rfl, rfl, fun _ => ⟨rfl, rfl⟩, rfl⟩

theorem advanceDot_keeps (s : State) :
    (advanceDot s).cfg = s.cfg ∧ (advanceDot s).dma = s.dma ∧ (s.cpu.halt ≠ none → (advanceDot s).cpu = s.cpu) := by
  rw [advanceDot]
  split
  · split
    · have k := frameWrap_keeps (s.mapPpu fun p => { p with dot := 0, scanline := 262 })
      exact ⟨k.1, k.2.1, fun h => (k.2.2.1 h).1⟩
    · exact ⟨rfl, rfl, fun _ => rfl⟩
  · exact ⟨rfl, rfl, fun _ => rfl⟩

theorem ppuDot_keeps (s : State) :
    (ppuDot s).cfg = s.cfg ∧ (ppuDot s).dma = s.dma ∧ (s.cpu.halt ≠ none → (ppuDot s).cpu = s.cpu) := by
  rw [ppuDot]
  split
  · have k := advanceDot_keeps (producePixel s.ppu.dot s.ppu.scanline s)
    rw [producePixel_changes] at k ⊢
    exact k
  · exact advanceDot_keeps s

end Sys2Proof.Machine
end

