-- ==== Sys2Proof/Laws/Cycle.lean ====
section
/-! SUPPORT. The processor's fetch, the driven cycles repeated, the three dots of a system cycle. -/

namespace Sys2Proof.Machine

theorem fetch_eq (s : State) :
    fetch s =
      { value := (busRead s.cpu.pc s).value,
        state := { (busRead s.cpu.pc s).state with cpu := { s.cpu with pc := s.cpu.pc + 1 } } } := by
  simp only [fetch, cpuRead, State.mapCpu, busRead_cpu, Cpu.setPC]

@[simp] theorem fetch_cpu (s : State) : (fetch s).state.cpu = { s.cpu with pc := s.cpu.pc + 1 } := by rw [fetch_eq]

@[simp] theorem fetch_cfg (s : State) : (fetch s).state.cfg = s.cfg := by
  rw [fetch_eq]
  exact busRead_cfg ..

theorem fetchBytes_length (n : Nat) (s : State) : (fetchBytes n s).bytes.length = n := by
  induction n generalizing s with
  | zero => rfl
  | succ n ih => simp [fetchBytes, ih]

/-- Bytes that decode as one whole instruction are what a fetching cycle fetches and executes. -/
theorem fetchExecute_of_decode {s : State} {n : Nat} {i : Instr} (h : decode (fetchBytes n s).bytes = .ok i []) :
    fetchExecute s = exec i (fetchBytes n s).state := by
  cases n with
  | zero => cases h
  | succ n =>
    simp only [fetchBytes, decode] at h ⊢
    simp only [fetchExecute]
    cases hf : decodeOpcode (fetch s).value with
    | none =>
      rw [hf] at h
      cases h
    | some f =>
      rw [hf] at h
      cases f with
      | f1 j =>
        cases n with
        | zero =>
          cases h
          rfl
        | succ n => simp [fetchBytes] at h
      | f2 mk =>
        match n, h with
        | 0, h => cases h
        | 1, h =>
          cases h
          rfl
        | n + 2, h => simp [fetchBytes] at h
      | f3 mk =>
        match n, h with
        | 0, h => cases h
        | 1, h => cases h
        | 2, h =>
          cases h
          rfl
        | n + 3, h => simp [fetchBytes] at h

theorem cpuCycle_halted {s : State} (h : s.cpu.halt ≠ none) : cpuCycle s = .next s := by
  rw [cpuCycle, if_pos ((halted_iff s).2 h)]

theorem cpuCycle_fetching {s : State} (hh : s.cpu.halt = none) (hp : s.cpu.pending = 0) :
    cpuCycle s = fetchExecute s := by
  have hn : ¬ s.halted = true := by
    rw [halted_iff]
    exact fun h => h hh
  rw [cpuCycle, if_neg hn, if_neg (by omega)]

theorem driveBus_session {s : State} {d : DmaSession} (h : s.dma = some d) : driveBus s = .next (dmaCycle d s) := by
  rw [driveBus, h]

theorem driveBus_processor {s : State} (h : s.dma = none) : driveBus s = cpuCycle s := by rw [driveBus, h]

theorem threeDots_keeps (s : State) :
    (threeDots s).cfg = s.cfg ∧ (threeDots s).dma = s.dma ∧ (s.cpu.halt ≠ none → (threeDots s).cpu = s.cpu) := by
  have k1 := ppuDot_keeps s
  have k2 := ppuDot_keeps (ppuDot s)
  have k3 := ppuDot_keeps (ppuDot (ppuDot s))
  refine ⟨k3.1.trans (k2.1.trans k1.1), k3.2.1.trans (k2.2.1.trans k1.2.1), fun h => ?_⟩
  have e1 := k1.2.2 h
  have e2 := k2.2.2 (by rw [e1]; exact h)
  exact (k3.2.2 (by rw [e2, e1]; exact h)).trans (e2.trans e1)

/-! ### DMA cycles -/

theorem dmaCycle_cpu (d : DmaSession) (s : State) : (dmaCycle d s).cpu = s.cpu := by
  rw [dmaCycle]
  split
  · exact busRead_cpu ..
  · simp only
    split <;> exact busWrite_cpu ..

theorem dmaCycle_cfg (d : DmaSession) (s : State) : (dmaCycle d s).cfg = s.cfg := by
  rw [dmaCycle]
  split
  · exact busRead_cfg ..
  · simp only
    split <;> exact busWrite_cfg ..

/-- The plain bus write a store cycle makes. -/
theorem busWrite_oamData (v : Byte) (s : State) :
    busWrite 0x2004 v s =
      { s with mainBus := writeLatch 0x2004 v, ram := Memory.write s.ram 4 v, ppu := Ppu.writeOamData v s.ppu } := by
  have h : PpuReg.ofAddr 0x2004 = .oamData := by decide
  rw [busWrite_eq, if_pos (by decide), h]
  rfl

theorem driveDma_idle (n : Nat) {s : State} (h : s.dma = none) : driveDma n s = s := by
  cases n with
  | zero => rfl
  | succ n => rw [driveDma, h]

theorem driveDma_session (n : Nat) {s : State} {d : DmaSession} (h : s.dma = some d) :
    driveDma (n + 1) s = driveDma n (dmaCycle d s) := by
  rw [driveDma, h]

theorem driveDma_add (m n : Nat) (s : State) : driveDma (m + n) s = driveDma n (driveDma m s) := by
  induction m generalizing s with
  | zero =>
    rw [Nat.zero_add]
    rfl
  | succ m ih =>
    rw [Nat.succ_add]
    cases h : s.dma with
    | none => rw [driveDma_idle _ h, driveDma_idle _ h, driveDma_idle _ h]
    | some d => rw [driveDma_session _ h, driveDma_session _ h, ih]

theorem driveDots_last (j : Nat) (s : State) : driveDots (j + 1) s = ppuDot (driveDots j s) := by
  induction j generalizing s with
  | zero => rfl
  | succ j ih =>
    rw [driveDots, ih]
    rfl

end Sys2Proof.Machine
end

