-- ==== Sys2Proof/Laws/Decode.lean ====
section
/-! SUPPORT. What a table entry builds, and the byte order of operand words. -/

namespace Sys2Proof

/-- A format builds an instruction when that instruction's operand bytes, put in, give it back. -/
def Form.Builds : Form → Instr → Prop
  | .f1 j, i => j = i ∧ i.operand.bytes = []
  | .f2 mk, i => ∃ b, mk b = i ∧ i.operand.bytes = [b]
  | .f3 mk, i => ∃ a, mk a = i ∧ i.operand.bytes = wordBytes a

theorem wordOf_loByte_hiByte (a : Addr) : Machine.wordOf (Machine.loByte a) (Machine.hiByte a) = a := by
  apply BitVec.eq_of_getLsbD_eq
  intro i hi
  simp only [Machine.wordOf, Machine.loByte, Machine.hiByte, BitVec.getLsbD_append,
    BitVec.getLsbD_extractLsb']
  by_cases h : i < 8
  · simp [h]
  · have : 8 + (i - 8) = i := by omega
    have h8 : i - 8 < 8 := by omega
    simp [h, h8, this]

theorem loByte_wordOf (lo hi : Byte) : Machine.loByte (Machine.wordOf lo hi) = lo := by
  apply BitVec.eq_of_getLsbD_eq
  intro i h
  simp only [Machine.wordOf, Machine.loByte, BitVec.getLsbD_extractLsb', BitVec.getLsbD_append]
  simp [h]

theorem hiByte_wordOf (lo hi : Byte) : Machine.hiByte (Machine.wordOf lo hi) = hi := by
  apply BitVec.eq_of_getLsbD_eq
  intro i h
  simp only [Machine.wordOf, Machine.hiByte, BitVec.getLsbD_extractLsb', BitVec.getLsbD_append]
  simp [h]

end Sys2Proof
end

