-- ==== Sys2Proof/Laws/Kept.lean ====
section
/-! SUPPORT. What every operation on the arrays keeps: their canonical form and the rest of the legal state outside the
processor; and the Picture Unit's counters, which no bus access and no instruction touches. -/

namespace Sys2Proof.Machine

/-- The invariant but for the processor's registers. -/
structure Canonical (s : State) : Prop where
  cfg_wf : s.cfg.wf = true
  ram_wf : Memory.wf 2048 s.ram = true
  vram_wf : Memory.wf 2048 s.vram = true
  oam_wf : Memory.wf 256 s.ppu.oam = true
  fb_sorted : Sparse.sorted s.ppu.fb = true
  fb_inside : ∀ c ∈ s.ppu.fb, c.1 < 256 * 240
  status_low_zero : s.ppu.status &&& 0x7F = 0
  dot_range : s.ppu.dot ≤ 340
  scanline_range : s.ppu.scanline ≤ 261
  dma_legal : ∀ d, s.dma = some d → d.Legal

theorem Invariant.canonical {s : State} (h : Invariant s) : Canonical s :=
  ⟨h.cfg_wf, h.ram_wf, h.vram_wf, h.oam_wf, h.fb_sorted, h.fb_inside, h.status_low_zero, h.dot_range,
    h.scanline_range, h.dma_legal⟩

theorem Canonical.invariant {s : State} (h : Canonical s) (hp : s.cpu.p &&& 0x30 = 0x30)
    (hi : s.halted = true → s.cpu.pending = 0) : Invariant s :=
  ⟨h.cfg_wf, h.ram_wf, h.vram_wf, h.oam_wf, h.fb_sorted, h.fb_inside, hp, h.status_low_zero, h.dot_range,
    h.scanline_range, h.dma_legal, hi⟩

namespace Canonical

variable {s t : State}

/-- A change of the arrays to canonical ones, and of status to one with its low bits zero. -/
theorem change (h : Canonical s) (hcfg : t.cfg = s.cfg) (hram : Memory.wf 2048 t.ram = true)
    (hvram : Memory.wf 2048 t.vram = true) (hoam : Memory.wf 256 t.ppu.oam = true) (hfb : t.ppu.fb = s.ppu.fb)
    (hstatus : t.ppu.status &&& 0x7F = 0) (hdot : t.ppu.dot = s.ppu.dot) (hscan : t.ppu.scanline = s.ppu.scanline)
    (hdma : t.dma = s.dma) : Canonical t :=
  ⟨hcfg ▸ h.cfg_wf, hram, hvram, hoam, hfb ▸ h.fb_sorted, hfb ▸ h.fb_inside, hstatus, hdot ▸ h.dot_range,
    hscan ▸ h.scanline_range, hdma ▸ h.dma_legal⟩

theorem withCpu (h : Canonical s) (c : Cpu) : Canonical { s with cpu := c } :=
  ⟨h.cfg_wf, h.ram_wf, h.vram_wf, h.oam_wf, h.fb_sorted, h.fb_inside, h.status_low_zero, h.dot_range,
    h.scanline_range, h.dma_legal⟩

theorem mapCpu (h : Canonical s) (f : Cpu → Cpu) : Canonical (s.mapCpu f) := h.withCpu _

theorem status_and (p : Byte) : putBit 7 false p &&& 0x7F = p &&& 0x7F := by
  rw [putBit7_false]
  apply byte_ext <;> simp only [BitVec.getLsbD_and] <;> simp

theorem registerRead_status (r : PpuReg) (h : s.ppu.status &&& 0x7F = 0) :
    (r.read s).state.ppu.status &&& 0x7F = 0 := by
  cases r
  case control => exact (status_and s.ppu.status).trans h
  case data =>
    simp only [PpuReg.read, picRead_eq]
    exact h
  all_goals exact h

theorem ofBusRead (h : Canonical s) (a : Addr) : Canonical (busRead a s).state := by
  refine h.change (busRead_cfg ..) (by rw [busRead_ram]; exact h.ram_wf) (by rw [busRead_vram]; exact h.vram_wf)
    (by rw [busRead_ppu_oam]; exact h.oam_wf) (busRead_ppu_fb ..) ?_ (busRead_ppu_dot ..) (busRead_ppu_scanline ..)
    (busRead_dma ..)
  rw [busRead_state]
  split
  · exact h.status_low_zero
  · split
    · exact registerRead_status _ h.status_low_zero
    · split
      · exact h.status_low_zero
      · show (floating s).state.ppu.status &&& 0x7F = 0
        rw [floating_frame]
        exact h.status_low_zero

theorem ofCpuRead (h : Canonical s) (a : Addr) : Canonical (cpuRead a s).state := h.ofBusRead a

theorem ofRegisterWrite (h : Canonical s) (r : PpuReg) (v : Byte) : Canonical (r.write v s) := by
  cases r
  case oamData =>
    exact h.change rfl h.ram_wf h.vram_wf (Memory.write_wf h.oam_wf s.ppu.oamaddr.isLt _) rfl h.status_low_zero
      rfl rfl rfl
  case address =>
    simp only [PpuReg.write, Ppu.writeAddress, State.mapPpu]
    split <;> exact h.change rfl h.ram_wf h.vram_wf h.oam_wf rfl h.status_low_zero rfl rfl rfl
  case data =>
    simp only [PpuReg.write, picWrite_eq, State.mapPpu]
    refine h.change rfl h.ram_wf ?_ h.oam_wf rfl h.status_low_zero rfl rfl rfl
    show Memory.wf 2048 (if _ then _ else _) = true
    split
    · exact Memory.write_wf h.vram_wf (Nat.mod_lt _ (by decide)) _
    · exact h.vram_wf
  all_goals exact h.change rfl h.ram_wf h.vram_wf h.oam_wf rfl h.status_low_zero rfl rfl rfl

theorem ofBusWrite (h : Canonical s) (a : Addr) (v : Byte) : Canonical (busWrite a v s) := by
  have toRam : Canonical { s with
      mainBus := writeLatch a v
      ram := if a.toNat % 0x2000 ≠ 0 ∨ a = 0 then Memory.write s.ram (a.toNat % 2048) v else s.ram } := by
    refine h.change rfl ?_ h.vram_wf h.oam_wf rfl h.status_low_zero rfl rfl rfl
    show Memory.wf 2048 (if _ then _ else _) = true
    split
    · exact Memory.write_wf h.ram_wf (Nat.mod_lt _ (by decide)) _
    · exact h.ram_wf
  rw [busWrite_eq]
  simp only
  split
  · exact toRam.ofRegisterWrite _ _
  · exact toRam

theorem ofDmaBegin (h : Canonical s) (b : Byte) : Canonical (dmaBegin b s) :=
  ⟨h.cfg_wf, h.ram_wf, h.vram_wf, h.oam_wf, h.fb_sorted, h.fb_inside, h.status_low_zero, h.dot_range,
    h.scanline_range, fun d hd => by
      cases hd
      exact ⟨rfl, rfl, show 0 < 256 by decide, loByte_wordOf 0 b⟩⟩

theorem ofCpuWrite (h : Canonical s) (a : Addr) (v : Byte) : Canonical (cpuWrite a v s) := by
  have hb := h.ofBusWrite a v
  rw [cpuWrite]
  split
  · rw [internalWrite]
    split
    · exact hb.ofDmaBegin v
    · exact ⟨hb.cfg_wf, hb.ram_wf, hb.vram_wf, hb.oam_wf, hb.fb_sorted, hb.fb_inside, hb.status_low_zero,
        hb.dot_range, hb.scanline_range, hb.dma_legal⟩
  · exact hb

theorem ofLocate (h : Canonical s) (m : MemMode) : Canonical (locate m s).state := by
  rw [locate_changes]
  exact ⟨h.cfg_wf, h.ram_wf, h.vram_wf, h.oam_wf, h.fb_sorted, h.fb_inside, h.status_low_zero, h.dot_range,
    h.scanline_range, h.dma_legal⟩

theorem ofPush (h : Canonical s) (v : Byte) : Canonical (push v s) := (h.ofCpuWrite _ _).mapCpu _

theorem ofPop (h : Canonical s) : Canonical (pop s).state := (h.mapCpu _).ofCpuRead _

theorem ofPushWord (h : Canonical s) (a : Addr) : Canonical (pushWord a s) := (h.ofPush _).ofPush _

theorem ofPopWord (h : Canonical s) : Canonical (popWord s).state := h.ofPop.ofPop

theorem ofRead16 (h : Canonical s) (a : Addr) : Canonical (read16 a s).state := (h.ofCpuRead _).ofCpuRead _

theorem ofEnterHandler (h : Canonical s) (ret : Addr) (setI : Bool) (vector : Addr) :
    Canonical (enterHandler ret setI vector s) := by
  have hp := (h.ofPushWord ret).ofPush (pushWord ret s).cpu.status
  rw [enterHandler]
  split
  · exact ((hp.mapCpu _).ofRead16 _).mapCpu _
  · exact (hp.ofRead16 _).mapCpu _

theorem ofLeaveHandler (h : Canonical s) : Canonical (leaveHandler s) := ((h.ofPop.mapCpu _).ofPopWord).mapCpu _

theorem ofNmi (h : Canonical s) : Canonical (nmi s) := by
  rw [nmi]
  split
  · exact h
  · exact (h.ofEnterHandler _ _ _).mapCpu _

theorem ofSource (h : Canonical s) {i : Instr} {r : Fetched} (hs : sourceOf i s = some r) : Canonical r.state := by
  rw [sourceOf] at hs
  generalize i.operand = o at hs
  cases o with
  | imm b =>
    cases hs
    exact h
  | mem m =>
    cases hs
    exact (h.ofLocate m).ofCpuRead _
  | imp | acc | ind _ | rel _ => cases hs

/-- Every instruction keeps the canonical form of every array. -/
theorem ofExec (h : Canonical s) {i : Instr} (he : exec i s = .next t) : Canonical t := by
  rcases hr : readOp i.mnemonic with _ | f
  · rcases hst : storeOp i.mnemonic with _ | reg
    · rcases hm : modifyOp i.mnemonic with _ | f
      · have hbr : ∀ op taken d, branch op taken d s = .next t → Canonical t := fun op taken d hb => by
          obtain ⟨pc, pending, rfl⟩ := branch_changes hb
          exact h.withCpu _
        cases i <;> first
          | (cases hr; done)
          | (cases hst; done)
          | (cases hm; done)
          | exact hbr _ _ _ he
          | skip
        case none.none.none.brk => cases he; exact (h.ofEnterHandler _ _ _).mapCpu _
        case none.none.none.php => cases he; exact (h.ofPush _).mapCpu _
        case none.none.none.pha => cases he; exact (h.ofPush _).mapCpu _
        case none.none.none.jsr => cases he; exact ((h.ofPushWord _).mapCpu _).mapCpu _
        case none.none.none.plp => cases he; exact (h.ofPop.mapCpu _).mapCpu _
        case none.none.none.pla => cases he; exact (h.ofPop.mapCpu _).mapCpu _
        case none.none.none.rti => cases he; exact h.ofLeaveHandler.mapCpu _
        case none.none.none.rts => cases he; exact (h.ofPopWord.mapCpu _).mapCpu _
        case none.none.none.jmpInd => cases he; exact (((h.ofCpuRead _).ofCpuRead _).mapCpu _).mapCpu _
        all_goals
          cases he
          exact h.withCpu _
      · rcases exec_modify i f hm s with ⟨-, e⟩ | ⟨m, -, e⟩ <;> rw [e] at he <;> cases he
        · exact h.withCpu _
        · exact (((h.ofLocate m).ofCpuRead _).ofCpuWrite _ _).withCpu _
    · obtain ⟨m, -, e⟩ := exec_store i reg hst s
      rw [e] at he
      cases he
      exact ((h.ofLocate m).ofCpuWrite _ _).withCpu _
  · obtain ⟨r, hs, -, -, e⟩ := exec_read i f hr s
    rw [e] at he
    cases he
    exact (h.ofSource hs).withCpu _

/-- A pixel inside the frame keeps the canonical form. -/
theorem ofProducePixel (h : Canonical s) {x y : Nat} (hx : x < 256) (hy : y < 240) :
    Canonical (producePixel x y s) := by
  simp only [producePixel, picRead_eq, State.mapPpu]
  refine ⟨h.cfg_wf, h.ram_wf, h.vram_wf, h.oam_wf, Sparse.sorted_put _ _ h.fb_sorted, fun c hc => ?_,
    h.status_low_zero, h.dot_range, h.scanline_range, h.dma_legal⟩
  rcases Sparse.mem_put hc with rfl | hc
  · show 256 * y + x < _
    omega
  · exact h.fb_inside c hc

/-- A DMA cycle keeps the canonical form and the legality of its session. -/
theorem ofDmaCycle (h : Canonical s) {d : DmaSession} (hd : d.Legal) : Canonical (dmaCycle d s) := by
  rw [dmaCycle]
  split
  · have hb := h.ofBusRead (d.sourceBase + BitVec.ofNat 16 d.cursor)
    exact ⟨hb.cfg_wf, hb.ram_wf, hb.vram_wf, hb.oam_wf, hb.fb_sorted, hb.fb_inside, hb.status_low_zero,
      hb.dot_range, hb.scanline_range, fun e he => by
        cases he
        exact ⟨hd.destination_is_oam_data, hd.length_is_page, hd.cursor_inside, hd.source_is_page⟩⟩
  · have hb := h.ofBusWrite d.destination d.latch
    simp only
    split
    · exact ⟨hb.cfg_wf, hb.ram_wf, hb.vram_wf, hb.oam_wf, hb.fb_sorted, hb.fb_inside, hb.status_low_zero,
        hb.dot_range, hb.scanline_range, fun e he => by cases he⟩
    · rename_i hne
      have := hd.length_is_page
      have := hd.cursor_inside
      exact ⟨hb.cfg_wf, hb.ram_wf, hb.vram_wf, hb.oam_wf, hb.fb_sorted, hb.fb_inside, hb.status_low_zero,
        hb.dot_range, hb.scanline_range, fun e he => by
          cases he
          exact ⟨hd.destination_is_oam_data, hd.length_is_page, show d.cursor + 1 < 256 by omega,
            hd.source_is_page⟩⟩

end Canonical

/-! ### The counters -/

/-- The counters, the frame counter and the frame signal are the same. -/
structure SameCounters (s t : State) : Prop where
  dot : t.ppu.dot = s.ppu.dot
  scanline : t.ppu.scanline = s.ppu.scanline
  frame : t.ppu.frame = s.ppu.frame
  frameReady : t.ppu.frameReady = s.ppu.frameReady

namespace SameCounters

variable {s t u : State}

theorem refl (s : State) : SameCounters s s := ⟨rfl, rfl, rfl, rfl⟩

theorem trans (h : SameCounters s t) (k : SameCounters t u) : SameCounters s u :=
  ⟨k.dot.trans h.dot, k.scanline.trans h.scanline, k.frame.trans h.frame, k.frameReady.trans h.frameReady⟩

theorem withCpu (h : SameCounters s t) (c : Cpu) : SameCounters s { t with cpu := c } :=
  ⟨h.dot, h.scanline, h.frame, h.frameReady⟩

theorem mapCpu (h : SameCounters s t) (f : Cpu → Cpu) : SameCounters s (t.mapCpu f) := h.withCpu _

theorem ofBusRead (a : Addr) (s : State) : SameCounters s (busRead a s).state :=
  ⟨busRead_ppu_dot .., busRead_ppu_scanline .., busRead_ppu_frame .., busRead_ppu_frameReady ..⟩

theorem ofBusWrite (a : Addr) (v : Byte) (s : State) : SameCounters s (busWrite a v s) :=
  ⟨busWrite_ppu_dot .., busWrite_ppu_scanline .., busWrite_ppu_frame .., busWrite_ppu_frameReady ..⟩

theorem ofCpuWrite (a : Addr) (v : Byte) (s : State) : SameCounters s (cpuWrite a v s) :=
  ⟨cpuWrite_ppu_dot .., cpuWrite_ppu_scanline .., cpuWrite_ppu_frame .., cpuWrite_ppu_frameReady ..⟩

theorem ofLocate (m : MemMode) (s : State) : SameCounters s (locate m s).state := by
  rw [locate_changes]
  exact ⟨rfl, rfl, rfl, rfl⟩

theorem ofPush (v : Byte) (s : State) : SameCounters s (push v s) := (ofCpuWrite _ _ s).mapCpu _

theorem ofPop (s : State) : SameCounters s (pop s).state := by
  rw [pop_eq]
  exact ⟨rfl, rfl, rfl, rfl⟩

theorem ofSource {i : Instr} {r : Fetched} (hs : sourceOf i s = some r) : SameCounters s r.state := by
  rw [sourceOf] at hs
  generalize i.operand = o at hs
  cases o with
  | imm b =>
    cases hs
    exact refl s
  | mem m =>
    cases hs
    exact (ofLocate m s).trans (ofBusRead _ _)
  | imp | acc | ind _ | rel _ => cases hs

/-- No instruction touches the counters. -/
theorem ofExec {i : Instr} (he : exec i s = .next t) : SameCounters s t := by
  rcases hr : readOp i.mnemonic with _ | f
  · rcases hst : storeOp i.mnemonic with _ | reg
    · rcases hm : modifyOp i.mnemonic with _ | f
      · have hbr : ∀ op taken d, branch op taken d s = .next t → SameCounters s t := fun op taken d hb => by
          obtain ⟨pc, pending, rfl⟩ := branch_changes hb
          exact ⟨rfl, rfl, rfl, rfl⟩
        cases i <;> first
          | (cases hr; done)
          | (cases hst; done)
          | (cases hm; done)
          | exact hbr _ _ _ he
          | skip
        case none.none.none.brk =>
          cases he
          rw [enterHandler_eq _ brkVector true (by decide) (by decide)]
          exact ⟨rfl, rfl, rfl, rfl⟩
        case none.none.none.php => cases he; exact (ofPush _ s).mapCpu _
        case none.none.none.pha => cases he; exact (ofPush _ s).mapCpu _
        case none.none.none.jsr => cases he; exact (((ofPush _ s).trans (ofPush _ _)).mapCpu _).mapCpu _
        case none.none.none.plp => cases he; exact ((ofPop s).mapCpu _).mapCpu _
        case none.none.none.pla => cases he; exact ((ofPop s).mapCpu _).mapCpu _
        case none.none.none.rti =>
          cases he
          rw [leaveHandler_eq]
          exact ⟨rfl, rfl, rfl, rfl⟩
        case none.none.none.rts => cases he; exact (((ofPop s).trans (ofPop _)).mapCpu _).mapCpu _
        case none.none.none.jmpInd =>
          cases he
          exact (((ofBusRead _ s).trans (ofBusRead _ _)).mapCpu _).mapCpu _
        all_goals
          cases he
          exact ⟨rfl, rfl, rfl, rfl⟩
      · rcases exec_modify i f hm s with ⟨-, e⟩ | ⟨m, -, e⟩ <;> rw [e] at he <;> cases he
        · exact ⟨rfl, rfl, rfl, rfl⟩
        · exact (((ofLocate m s).trans (ofBusRead _ _)).trans (ofCpuWrite _ _ _)).withCpu _
    · obtain ⟨m, -, e⟩ := exec_store i reg hst s
      rw [e] at he
      cases he
      exact ((ofLocate m s).trans (ofCpuWrite _ _ _)).withCpu _
  · obtain ⟨r, hs, -, -, e⟩ := exec_read i f hr s
    rw [e] at he
    cases he
    exact (ofSource hs).withCpu _

theorem ofFetch (s : State) : SameCounters s (fetch s).state := (ofBusRead s.cpu.pc s).mapCpu _

theorem ofDmaCycle (d : DmaSession) (s : State) : SameCounters s (dmaCycle d s) := by
  rw [dmaCycle]
  split
  · have k := ofBusRead (d.sourceBase + BitVec.ofNat 16 d.cursor) s
    exact ⟨k.dot, k.scanline, k.frame, k.frameReady⟩
  · have k := ofBusWrite d.destination d.latch s
    simp only
    split <;> exact ⟨k.dot, k.scanline, k.frame, k.frameReady⟩

end SameCounters

end Sys2Proof.Machine
end

