-- ==== Sys2Proof/Laws/PerInstr.lean ====
section
/-! SUPPORT. One lemma per instruction: the opcode table's entry for its opcode byte builds it back. -/

namespace Sys2Proof.Laws.Opcode

/-- The table entry of the instruction's opcode byte builds the instruction from its operand. -/
def Statement (i : Instr) : Prop := ∃ f, decodeOpcode i.opcode = some f ∧ f.Builds i

theorem brk : Statement .brk := ⟨.f1 .brk, rfl, rfl, rfl⟩
theorem oraIzx (z : Byte) : Statement (.oraIzx z) := ⟨.f2 .oraIzx, show decodeOpcode 0x01 = some (.f2 .oraIzx) from rfl, z, rfl, rfl⟩
theorem oraZp (z : Byte) : Statement (.oraZp z) := ⟨.f2 .oraZp, show decodeOpcode 0x05 = some (.f2 .oraZp) from rfl, z, rfl, rfl⟩
theorem aslZp (z : Byte) : Statement (.aslZp z) := ⟨.f2 .aslZp, show decodeOpcode 0x06 = some (.f2 .aslZp) from rfl, z, rfl, rfl⟩
theorem php : Statement .php := ⟨.f1 .php, rfl, rfl, rfl⟩
theorem oraImm (imm : Byte) : Statement (.oraImm imm) := ⟨.f2 .oraImm, show decodeOpcode 0x09 = some (.f2 .oraImm) from rfl, imm, rfl, rfl⟩
theorem aslAcc : Statement .aslAcc := ⟨.f1 .aslAcc, rfl, rfl, rfl⟩
theorem oraAbs (a : Addr) : Statement (.oraAbs a) := ⟨.f3 .oraAbs, show decodeOpcode 0x0D = some (.f3 .oraAbs) from rfl, a, rfl, rfl⟩
theorem aslAbs (a : Addr) : Statement (.aslAbs a) := ⟨.f3 .aslAbs, show decodeOpcode 0x0E = some (.f3 .aslAbs) from rfl, a, rfl, rfl⟩
theorem bpl (d : Byte) : Statement (.bpl d) := ⟨.f2 .bpl, show decodeOpcode 0x10 = some (.f2 .bpl) from rfl, d, rfl, rfl⟩
theorem oraIzy (z : Byte) : Statement (.oraIzy z) := ⟨.f2 .oraIzy, show decodeOpcode 0x11 = some (.f2 .oraIzy) from rfl, z, rfl, rfl⟩
theorem oraZpx (z : Byte) : Statement (.oraZpx z) := ⟨.f2 .oraZpx, show decodeOpcode 0x15 = some (.f2 .oraZpx) from rfl, z, rfl, rfl⟩
theorem aslZpx (z : Byte) : Statement (.aslZpx z) := ⟨.f2 .aslZpx, show decodeOpcode 0x16 = some (.f2 .aslZpx) from rfl, z, rfl, rfl⟩
theorem clc : Statement .clc := ⟨.f1 .clc, rfl, rfl, rfl⟩
theorem oraAby (a : Addr) : Statement (.oraAby a) := ⟨.f3 .oraAby, show decodeOpcode 0x19 = some (.f3 .oraAby) from rfl, a, rfl, rfl⟩
theorem oraAbx (a : Addr) : Statement (.oraAbx a) := ⟨.f3 .oraAbx, show decodeOpcode 0x1D = some (.f3 .oraAbx) from rfl, a, rfl, rfl⟩
theorem aslAbx (a : Addr) : Statement (.aslAbx a) := ⟨.f3 .aslAbx, show decodeOpcode 0x1E = some (.f3 .aslAbx) from rfl, a, rfl, rfl⟩
theorem jsr (a : Addr) : Statement (.jsr a) := ⟨.f3 .jsr, show decodeOpcode 0x20 = some (.f3 .jsr) from rfl, a, rfl, rfl⟩
theorem andIzx (z : Byte) : Statement (.andIzx z) := ⟨.f2 .andIzx, show decodeOpcode 0x21 = some (.f2 .andIzx) from rfl, z, rfl, rfl⟩
theorem bitZp (z : Byte) : Statement (.bitZp z) := ⟨.f2 .bitZp, show decodeOpcode 0x24 = some (.f2 .bitZp) from rfl, z, rfl, rfl⟩
theorem andZp (z : Byte) : Statement (.andZp z) := ⟨.f2 .andZp, show decodeOpcode 0x25 = some (.f2 .andZp) from rfl, z, rfl, rfl⟩
theorem rolZp (z : Byte) : Statement (.rolZp z) := ⟨.f2 .rolZp, show decodeOpcode 0x26 = some (.f2 .rolZp) from rfl, z, rfl, rfl⟩
theorem plp : Statement .plp := ⟨.f1 .plp, rfl, rfl, rfl⟩
theorem andImm (imm : Byte) : Statement (.andImm imm) := ⟨.f2 .andImm, show decodeOpcode 0x29 = some (.f2 .andImm) from rfl, imm, rfl, rfl⟩
theorem rolAcc : Statement .rolAcc := ⟨.f1 .rolAcc, rfl, rfl, rfl⟩
theorem bitAbs (a : Addr) : Statement (.bitAbs a) := ⟨.f3 .bitAbs, show decodeOpcode 0x2C = some (.f3 .bitAbs) from rfl, a, rfl, rfl⟩
theorem andAbs (a : Addr) : Statement (.andAbs a) := ⟨.f3 .andAbs, show decodeOpcode 0x2D = some (.f3 .andAbs) from rfl, a, rfl, rfl⟩
theorem rolAbs (a : Addr) : Statement (.rolAbs a) := ⟨.f3 .rolAbs, show decodeOpcode 0x2E = some (.f3 .rolAbs) from rfl, a, rfl, rfl⟩
theorem bmi (d : Byte) : Statement (.bmi d) := ⟨.f2 .bmi, show decodeOpcode 0x30 = some (.f2 .bmi) from rfl, d, rfl, rfl⟩
theorem andIzy (z : Byte) : Statement (.andIzy z) := ⟨.f2 .andIzy, show decodeOpcode 0x31 = some (.f2 .andIzy) from rfl, z, rfl, rfl⟩
theorem andZpx (z : Byte) : Statement (.andZpx z) := ⟨.f2 .andZpx, show decodeOpcode 0x35 = some (.f2 .andZpx) from rfl, z, rfl, rfl⟩
theorem rolZpx (z : Byte) : Statement (.rolZpx z) := ⟨.f2 .rolZpx, show decodeOpcode 0x36 = some (.f2 .rolZpx) from rfl, z, rfl, rfl⟩
theorem sec : Statement .sec := ⟨.f1 .sec, rfl, rfl, rfl⟩
theorem andAby (a : Addr) : Statement (.andAby a) := ⟨.f3 .andAby, show decodeOpcode 0x39 = some (.f3 .andAby) from rfl, a, rfl, rfl⟩
theorem andAbx (a : Addr) : Statement (.andAbx a) := ⟨.f3 .andAbx, show decodeOpcode 0x3D = some (.f3 .andAbx) from rfl, a, rfl, rfl⟩
theorem rolAbx (a : Addr) : Statement (.rolAbx a) := ⟨.f3 .rolAbx, show decodeOpcode 0x3E = some (.f3 .rolAbx) from rfl, a, rfl, rfl⟩
theorem rti : Statement .rti := ⟨.f1 .rti, rfl, rfl, rfl⟩
theorem eorIzx (z : Byte) : Statement (.eorIzx z) := ⟨.f2 .eorIzx, show decodeOpcode 0x41 = some (.f2 .eorIzx) from rfl, z, rfl, rfl⟩
theorem eorZp (z : Byte) : Statement (.eorZp z) := ⟨.f2 .eorZp, show decodeOpcode 0x45 = some (.f2 .eorZp) from rfl, z, rfl, rfl⟩
theorem lsrZp (z : Byte) : Statement (.lsrZp z) := ⟨.f2 .lsrZp, show decodeOpcode 0x46 = some (.f2 .lsrZp) from rfl, z, rfl, rfl⟩
theorem pha : Statement .pha := ⟨.f1 .pha, rfl, rfl, rfl⟩
theorem eorImm (imm : Byte) : Statement (.eorImm imm) := ⟨.f2 .eorImm, show decodeOpcode 0x49 = some (.f2 .eorImm) from rfl, imm, rfl, rfl⟩
theorem lsrAcc : Statement .lsrAcc := ⟨.f1 .lsrAcc, rfl, rfl, rfl⟩
theorem jmpAbs (a : Addr) : Statement (.jmpAbs a) := ⟨.f3 .jmpAbs, show decodeOpcode 0x4C = some (.f3 .jmpAbs) from rfl, a, rfl, rfl⟩
theorem eorAbs (a : Addr) : Statement (.eorAbs a) := ⟨.f3 .eorAbs, show decodeOpcode 0x4D = some (.f3 .eorAbs) from rfl, a, rfl, rfl⟩
theorem lsrAbs (a : Addr) : Statement (.lsrAbs a) := ⟨.f3 .lsrAbs, show decodeOpcode 0x4E = some (.f3 .lsrAbs) from rfl, a, rfl, rfl⟩
theorem bvc (d : Byte) : Statement (.bvc d) := ⟨.f2 .bvc, show decodeOpcode 0x50 = some (.f2 .bvc) from rfl, d, rfl, rfl⟩
theorem eorIzy (z : Byte) : Statement (.eorIzy z) := ⟨.f2 .eorIzy, show decodeOpcode 0x51 = some (.f2 .eorIzy) from rfl, z, rfl, rfl⟩
theorem eorZpx (z : Byte) : Statement (.eorZpx z) := ⟨.f2 .eorZpx, show decodeOpcode 0x55 = some (.f2 .eorZpx) from rfl, z, rfl, rfl⟩
theorem lsrZpx (z : Byte) : Statement (.lsrZpx z) := ⟨.f2 .lsrZpx, show decodeOpcode 0x56 = some (.f2 .lsrZpx) from rfl, z, rfl, rfl⟩
theorem cli : Statement .cli := ⟨.f1 .cli, rfl, rfl, rfl⟩
theorem eorAby (a : Addr) : Statement (.eorAby a) := ⟨.f3 .eorAby, show decodeOpcode 0x59 = some (.f3 .eorAby) from rfl, a, rfl, rfl⟩
theorem eorAbx (a : Addr) : Statement (.eorAbx a) := ⟨.f3 .eorAbx, show decodeOpcode 0x5D = some (.f3 .eorAbx) from rfl, a, rfl, rfl⟩
theorem lsrAbx (a : Addr) : Statement (.lsrAbx a) := ⟨.f3 .lsrAbx, show decodeOpcode 0x5E = some (.f3 .lsrAbx) from rfl, a, rfl, rfl⟩
theorem rts : Statement .rts := ⟨.f1 .rts, rfl, rfl, rfl⟩
theorem adcIzx (z : Byte) : Statement (.adcIzx z) := ⟨.f2 .adcIzx, show decodeOpcode 0x61 = some (.f2 .adcIzx) from rfl, z, rfl, rfl⟩
theorem adcZp (z : Byte) : Statement (.adcZp z) := ⟨.f2 .adcZp, show decodeOpcode 0x65 = some (.f2 .adcZp) from rfl, z, rfl, rfl⟩
theorem rorZp (z : Byte) : Statement (.rorZp z) := ⟨.f2 .rorZp, show decodeOpcode 0x66 = some (.f2 .rorZp) from rfl, z, rfl, rfl⟩
theorem pla : Statement .pla := ⟨.f1 .pla, rfl, rfl, rfl⟩
theorem adcImm (imm : Byte) : Statement (.adcImm imm) := ⟨.f2 .adcImm, show decodeOpcode 0x69 = some (.f2 .adcImm) from rfl, imm, rfl, rfl⟩
theorem rorAcc : Statement .rorAcc := ⟨.f1 .rorAcc, rfl, rfl, rfl⟩
theorem jmpInd (ptr : Addr) : Statement (.jmpInd ptr) := ⟨.f3 .jmpInd, show decodeOpcode 0x6C = some (.f3 .jmpInd) from rfl, ptr, rfl, rfl⟩
theorem adcAbs (a : Addr) : Statement (.adcAbs a) := ⟨.f3 .adcAbs, show decodeOpcode 0x6D = some (.f3 .adcAbs) from rfl, a, rfl, rfl⟩
theorem rorAbs (a : Addr) : Statement (.rorAbs a) := ⟨.f3 .rorAbs, show decodeOpcode 0x6E = some (.f3 .rorAbs) from rfl, a, rfl, rfl⟩
theorem bvs (d : Byte) : Statement (.bvs d) := ⟨.f2 .bvs, show decodeOpcode 0x70 = some (.f2 .bvs) from rfl, d, rfl, rfl⟩
theorem adcIzy (z : Byte) : Statement (.adcIzy z) := ⟨.f2 .adcIzy, show decodeOpcode 0x71 = some (.f2 .adcIzy) from rfl, z, rfl, rfl⟩
theorem adcZpx (z : Byte) : Statement (.adcZpx z) := ⟨.f2 .adcZpx, show decodeOpcode 0x75 = some (.f2 .adcZpx) from rfl, z, rfl, rfl⟩
theorem rorZpx (z : Byte) : Statement (.rorZpx z) := ⟨.f2 .rorZpx, show decodeOpcode 0x76 = some (.f2 .rorZpx) from rfl, z, rfl, rfl⟩
theorem sei : Statement .sei := ⟨.f1 .sei, rfl, rfl, rfl⟩
theorem adcAby (a : Addr) : Statement (.adcAby a) := ⟨.f3 .adcAby, show decodeOpcode 0x79 = some (.f3 .adcAby) from rfl, a, rfl, rfl⟩
theorem adcAbx (a : Addr) : Statement (.adcAbx a) := ⟨.f3 .adcAbx, show decodeOpcode 0x7D = some (.f3 .adcAbx) from rfl, a, rfl, rfl⟩
theorem rorAbx (a : Addr) : Statement (.rorAbx a) := ⟨.f3 .rorAbx, show decodeOpcode 0x7E = some (.f3 .rorAbx) from rfl, a, rfl, rfl⟩
theorem staIzx (z : Byte) : Statement (.staIzx z) := ⟨.f2 .staIzx, show decodeOpcode 0x81 = some (.f2 .staIzx) from rfl, z, rfl, rfl⟩
theorem styZp (z : Byte) : Statement (.styZp z) := ⟨.f2 .styZp, show decodeOpcode 0x84 = some (.f2 .styZp) from rfl, z, rfl, rfl⟩
theorem staZp (z : Byte) : Statement (.staZp z) := ⟨.f2 .staZp, show decodeOpcode 0x85 = some (.f2 .staZp) from rfl, z, rfl, rfl⟩
theorem stxZp (z : Byte) : Statement (.stxZp z) := ⟨.f2 .stxZp, show decodeOpcode 0x86 = some (.f2 .stxZp) from rfl, z, rfl, rfl⟩
theorem dey : Statement .dey := ⟨.f1 .dey, rfl, rfl, rfl⟩
theorem txa : Statement .txa := ⟨.f1 .txa, rfl, rfl, rfl⟩
theorem styAbs (a : Addr) : Statement (.styAbs a) := ⟨.f3 .styAbs, show decodeOpcode 0x8C = some (.f3 .styAbs) from rfl, a, rfl, rfl⟩
theorem staAbs (a : Addr) : Statement (.staAbs a) := ⟨.f3 .staAbs, show decodeOpcode 0x8D = some (.f3 .staAbs) from rfl, a, rfl, rfl⟩
theorem stxAbs (a : Addr) : Statement (.stxAbs a) := ⟨.f3 .stxAbs, show decodeOpcode 0x8E = some (.f3 .stxAbs) from rfl, a, rfl, rfl⟩
theorem bcc (d : Byte) : Statement (.bcc d) := ⟨.f2 .bcc, show decodeOpcode 0x90 = some (.f2 .bcc) from rfl, d, rfl, rfl⟩
theorem staIzy (z : Byte) : Statement (.staIzy z) := ⟨.f2 .staIzy, show decodeOpcode 0x91 = some (.f2 .staIzy) from rfl, z, rfl, rfl⟩
theorem styZpx (z : Byte) : Statement (.styZpx z) := ⟨.f2 .styZpx, show decodeOpcode 0x94 = some (.f2 .styZpx) from rfl, z, rfl, rfl⟩
theorem staZpx (z : Byte) : Statement (.staZpx z) := ⟨.f2 .staZpx, show decodeOpcode 0x95 = some (.f2 .staZpx) from rfl, z, rfl, rfl⟩
theorem stxZpy (z : Byte) : Statement (.stxZpy z) := ⟨.f2 .stxZpy, show decodeOpcode 0x96 = some (.f2 .stxZpy) from rfl, z, rfl, rfl⟩
theorem tya : Statement .tya := ⟨.f1 .tya, rfl, rfl, rfl⟩
theorem staAby (a : Addr) : Statement (.staAby a) := ⟨.f3 .staAby, show decodeOpcode 0x99 = some (.f3 .staAby) from rfl, a, rfl, rfl⟩
theorem txs : Statement .txs := ⟨.f1 .txs, rfl, rfl, rfl⟩
theorem staAbx (a : Addr) : Statement (.staAbx a) := ⟨.f3 .staAbx, show decodeOpcode 0x9D = some (.f3 .staAbx) from rfl, a, rfl, rfl⟩
theorem ldyImm (imm : Byte) : Statement (.ldyImm imm) := ⟨.f2 .ldyImm, show decodeOpcode 0xA0 = some (.f2 .ldyImm) from rfl, imm, rfl, rfl⟩
theorem ldaIzx (z : Byte) : Statement (.ldaIzx z) := ⟨.f2 .ldaIzx, show decodeOpcode 0xA1 = some (.f2 .ldaIzx) from rfl, z, rfl, rfl⟩
theorem ldxImm (imm : Byte) : Statement (.ldxImm imm) := ⟨.f2 .ldxImm, show decodeOpcode 0xA2 = some (.f2 .ldxImm) from rfl, imm, rfl, rfl⟩
theorem ldyZp (z : Byte) : Statement (.ldyZp z) := ⟨.f2 .ldyZp, show decodeOpcode 0xA4 = some (.f2 .ldyZp) from rfl, z, rfl, rfl⟩
theorem ldaZp (z : Byte) : Statement (.ldaZp z) := ⟨.f2 .ldaZp, show decodeOpcode 0xA5 = some (.f2 .ldaZp) from rfl, z, rfl, rfl⟩
theorem ldxZp (z : Byte) : Statement (.ldxZp z) := ⟨.f2 .ldxZp, show decodeOpcode 0xA6 = some (.f2 .ldxZp) from rfl, z, rfl, rfl⟩
theorem tay : Statement .tay := ⟨.f1 .tay, rfl, rfl, rfl⟩
theorem ldaImm (imm : Byte) : Statement (.ldaImm imm) := ⟨.f2 .ldaImm, show decodeOpcode 0xA9 = some (.f2 .ldaImm) from rfl, imm, rfl, rfl⟩
theorem tax : Statement .tax := ⟨.f1 .tax, rfl, rfl, rfl⟩
theorem ldyAbs (a : Addr) : Statement (.ldyAbs a) := ⟨.f3 .ldyAbs, show decodeOpcode 0xAC = some (.f3 .ldyAbs) from rfl, a, rfl, rfl⟩
theorem ldaAbs (a : Addr) : Statement (.ldaAbs a) := ⟨.f3 .ldaAbs, show decodeOpcode 0xAD = some (.f3 .ldaAbs) from rfl, a, rfl, rfl⟩
theorem ldxAbs (a : Addr) : Statement (.ldxAbs a) := ⟨.f3 .ldxAbs, show decodeOpcode 0xAE = some (.f3 .ldxAbs) from rfl, a, rfl, rfl⟩
theorem bcs (d : Byte) : Statement (.bcs d) := ⟨.f2 .bcs, show decodeOpcode 0xB0 = some (.f2 .bcs) from rfl, d, rfl, rfl⟩
theorem ldaIzy (z : Byte) : Statement (.ldaIzy z) := ⟨.f2 .ldaIzy, show decodeOpcode 0xB1 = some (.f2 .ldaIzy) from rfl, z, rfl, rfl⟩
theorem ldyZpx (z : Byte) : Statement (.ldyZpx z) := ⟨.f2 .ldyZpx, show decodeOpcode 0xB4 = some (.f2 .ldyZpx) from rfl, z, rfl, rfl⟩
theorem ldaZpx (z : Byte) : Statement (.ldaZpx z) := ⟨.f2 .ldaZpx, show decodeOpcode 0xB5 = some (.f2 .ldaZpx) from rfl, z, rfl, rfl⟩
theorem ldxZpy (z : Byte) : Statement (.ldxZpy z) := ⟨.f2 .ldxZpy, show decodeOpcode 0xB6 = some (.f2 .ldxZpy) from rfl, z, rfl, rfl⟩
theorem clv : Statement .clv := ⟨.f1 .clv, rfl, rfl, rfl⟩
theorem ldaAby (a : Addr) : Statement (.ldaAby a) := ⟨.f3 .ldaAby, show decodeOpcode 0xB9 = some (.f3 .ldaAby) from rfl, a, rfl, rfl⟩
theorem tsx : Statement .tsx := ⟨.f1 .tsx, rfl, rfl, rfl⟩
theorem ldyAbx (a : Addr) : Statement (.ldyAbx a) := ⟨.f3 .ldyAbx, show decodeOpcode 0xBC = some (.f3 .ldyAbx) from rfl, a, rfl, rfl⟩
theorem ldaAbx (a : Addr) : Statement (.ldaAbx a) := ⟨.f3 .ldaAbx, show decodeOpcode 0xBD = some (.f3 .ldaAbx) from rfl, a, rfl, rfl⟩
theorem ldxAby (a : Addr) : Statement (.ldxAby a) := ⟨.f3 .ldxAby, show decodeOpcode 0xBE = some (.f3 .ldxAby) from rfl, a, rfl, rfl⟩
theorem cpyImm (imm : Byte) : Statement (.cpyImm imm) := ⟨.f2 .cpyImm, show decodeOpcode 0xC0 = some (.f2 .cpyImm) from rfl, imm, rfl, rfl⟩
theorem cmpIzx (z : Byte) : Statement (.cmpIzx z) := ⟨.f2 .cmpIzx, show decodeOpcode 0xC1 = some (.f2 .cmpIzx) from rfl, z, rfl, rfl⟩
theorem cpyZp (z : Byte) : Statement (.cpyZp z) := ⟨.f2 .cpyZp, show decodeOpcode 0xC4 = some (.f2 .cpyZp) from rfl, z, rfl, rfl⟩
theorem cmpZp (z : Byte) : Statement (.cmpZp z) := ⟨.f2 .cmpZp, show decodeOpcode 0xC5 = some (.f2 .cmpZp) from rfl, z, rfl, rfl⟩
theorem decZp (z : Byte) : Statement (.decZp z) := ⟨.f2 .decZp, show decodeOpcode 0xC6 = some (.f2 .decZp) from rfl, z, rfl, rfl⟩
theorem iny : Statement .iny := ⟨.f1 .iny, rfl, rfl, rfl⟩
theorem cmpImm (imm : Byte) : Statement (.cmpImm imm) := ⟨.f2 .cmpImm, show decodeOpcode 0xC9 = some (.f2 .cmpImm) from rfl, imm, rfl, rfl⟩
theorem dex : Statement .dex := ⟨.f1 .dex, rfl, rfl, rfl⟩
theorem cpyAbs (a : Addr) : Statement (.cpyAbs a) := ⟨.f3 .cpyAbs, show decodeOpcode 0xCC = some (.f3 .cpyAbs) from rfl, a, rfl, rfl⟩
theorem cmpAbs (a : Addr) : Statement (.cmpAbs a) := ⟨.f3 .cmpAbs, show decodeOpcode 0xCD = some (.f3 .cmpAbs) from rfl, a, rfl, rfl⟩
theorem decAbs (a : Addr) : Statement (.decAbs a) := ⟨.f3 .decAbs, show decodeOpcode 0xCE = some (.f3 .decAbs) from rfl, a, rfl, rfl⟩
theorem bne (d : Byte) : Statement (.bne d) := ⟨.f2 .bne, show decodeOpcode 0xD0 = some (.f2 .bne) from rfl, d, rfl, rfl⟩
theorem cmpIzy (z : Byte) : Statement (.cmpIzy z) := ⟨.f2 .cmpIzy, show decodeOpcode 0xD1 = some (.f2 .cmpIzy) from rfl, z, rfl, rfl⟩
theorem cmpZpx (z : Byte) : Statement (.cmpZpx z) := ⟨.f2 .cmpZpx, show decodeOpcode 0xD5 = some (.f2 .cmpZpx) from rfl, z, rfl, rfl⟩
theorem decZpx (z : Byte) : Statement (.decZpx z) := ⟨.f2 .decZpx, show decodeOpcode 0xD6 = some (.f2 .decZpx) from rfl, z, rfl, rfl⟩
theorem cld : Statement .cld := ⟨.f1 .cld, rfl, rfl, rfl⟩
theorem cmpAby (a : Addr) : Statement (.cmpAby a) := ⟨.f3 .cmpAby, show decodeOpcode 0xD9 = some (.f3 .cmpAby) from rfl, a, rfl, rfl⟩
theorem cmpAbx (a : Addr) : Statement (.cmpAbx a) := ⟨.f3 .cmpAbx, show decodeOpcode 0xDD = some (.f3 .cmpAbx) from rfl, a, rfl, rfl⟩
theorem decAbx (a : Addr) : Statement (.decAbx a) := ⟨.f3 .decAbx, show decodeOpcode 0xDE = some (.f3 .decAbx) from rfl, a, rfl, rfl⟩
theorem cpxImm (imm : Byte) : Statement (.cpxImm imm) := ⟨.f2 .cpxImm, show decodeOpcode 0xE0 = some (.f2 .cpxImm) from rfl, imm, rfl, rfl⟩
theorem sbcIzx (z : Byte) : Statement (.sbcIzx z) := ⟨.f2 .sbcIzx, show decodeOpcode 0xE1 = some (.f2 .sbcIzx) from rfl, z, rfl, rfl⟩
theorem cpxZp (z : Byte) : Statement (.cpxZp z) := ⟨.f2 .cpxZp, show decodeOpcode 0xE4 = some (.f2 .cpxZp) from rfl, z, rfl, rfl⟩
theorem sbcZp (z : Byte) : Statement (.sbcZp z) := ⟨.f2 .sbcZp, show decodeOpcode 0xE5 = some (.f2 .sbcZp) from rfl, z, rfl, rfl⟩
theorem incZp (z : Byte) : Statement (.incZp z) := ⟨.f2 .incZp, show decodeOpcode 0xE6 = some (.f2 .incZp) from rfl, z, rfl, rfl⟩
theorem inx : Statement .inx := ⟨.f1 .inx, rfl, rfl, rfl⟩
theorem sbcImm (imm : Byte) : Statement (.sbcImm imm) := ⟨.f2 .sbcImm, show decodeOpcode 0xE9 = some (.f2 .sbcImm) from rfl, imm, rfl, rfl⟩
theorem nop : Statement .nop := ⟨.f1 .nop, rfl, rfl, rfl⟩
theorem cpxAbs (a : Addr) : Statement (.cpxAbs a) := ⟨.f3 .cpxAbs, show decodeOpcode 0xEC = some (.f3 .cpxAbs) from rfl, a, rfl, rfl⟩
theorem sbcAbs (a : Addr) : Statement (.sbcAbs a) := ⟨.f3 .sbcAbs, show decodeOpcode 0xED = some (.f3 .sbcAbs) from rfl, a, rfl, rfl⟩
theorem incAbs (a : Addr) : Statement (.incAbs a) := ⟨.f3 .incAbs, show decodeOpcode 0xEE = some (.f3 .incAbs) from rfl, a, rfl, rfl⟩
theorem beq (d : Byte) : Statement (.beq d) := ⟨.f2 .beq, show decodeOpcode 0xF0 = some (.f2 .beq) from rfl, d, rfl, rfl⟩
theorem sbcIzy (z : Byte) : Statement (.sbcIzy z) := ⟨.f2 .sbcIzy, show decodeOpcode 0xF1 = some (.f2 .sbcIzy) from rfl, z, rfl, rfl⟩
theorem sbcZpx (z : Byte) : Statement (.sbcZpx z) := ⟨.f2 .sbcZpx, show decodeOpcode 0xF5 = some (.f2 .sbcZpx) from rfl, z, rfl, rfl⟩
theorem incZpx (z : Byte) : Statement (.incZpx z) := ⟨.f2 .incZpx, show decodeOpcode 0xF6 = some (.f2 .incZpx) from rfl, z, rfl, rfl⟩
theorem sed : Statement .sed := ⟨.f1 .sed, rfl, rfl, rfl⟩
theorem sbcAby (a : Addr) : Statement (.sbcAby a) := ⟨.f3 .sbcAby, show decodeOpcode 0xF9 = some (.f3 .sbcAby) from rfl, a, rfl, rfl⟩
theorem sbcAbx (a : Addr) : Statement (.sbcAbx a) := ⟨.f3 .sbcAbx, show decodeOpcode 0xFD = some (.f3 .sbcAbx) from rfl, a, rfl, rfl⟩
theorem incAbx (a : Addr) : Statement (.incAbx a) := ⟨.f3 .incAbx, show decodeOpcode 0xFE = some (.f3 .incAbx) from rfl, a, rfl, rfl⟩

end Sys2Proof.Laws.Opcode
end

