-- ==== Sys2Proof/Tests/Slice0.lean ====
section
/-! SUPPORT. The model's own tests: ill-formed configurations refused; words written out from 30_encoding.md R133; vectors of
95_test_vectors.md, named by their numbers there; and, for each statement with hypotheses, a witness that
meets them. -/

namespace Sys2Proof.Tests

open Sys2Proof.Machine

/-! ### Helpers -/

/-- The machine with a program at the start of program ROM, other cartridge bytes and floating reads 0x00. -/
def machine (program : List Byte) : State :=
  { State.reset with
    cfg := { defaultConfig with prg := Memory.ofBytes 0 program, float := .constant 0x00 }
    cpu := { State.reset.cpu with pc := 0x8000 } }

/-- What the vectors show of an outcome: `A X Y S P`, `PC`, the cycles of the instruction, RAM. -/
def shown : StepResult → Option (List Byte × Addr × Nat × Memory)
  | .next t => some ([t.cpu.a, t.cpu.x, t.cpu.y, t.cpu.s, t.cpu.p], t.cpu.pc, t.cpu.pending + 1, t.ram)
  | .fault _ => none
  | .refused _ => none

/-- One processor cycle from 0x8000 with the given `A X Y S P` and RAM. -/
def ran (program : List Byte) (a x y s p : Byte) (ram : Memory) : Option (List Byte × Addr × Nat × Memory) :=
  let m := machine program
  shown (cpuCycle { m with ram := ram, cpu := { m.cpu with a := a, x := x, y := y, s := s, p := p } })

/-- A property of the next state, where there is one. -/
def nextHas (f : State → Bool) : StepResult → Bool
  | .next t => f t
  | .fault _ => false
  | .refused _ => false

theorem nextHas_next {f : State → Bool} {o : StepResult} (h : nextHas f o = true) : ∃ t, o = .next t := by
  cases o with
  | next t => exact ⟨t, rfl⟩
  | fault r => cases h
  | refused r => cases h

/-- Write Picture Unit register `i`. -/
def put (i : Nat) (b : Byte) (s : State) : State := busWrite (BitVec.ofNat 16 (0x2000 + i)) b s

/-- Read Picture Unit register `i`. -/
def get (i : Nat) (s : State) : Read := busRead (BitVec.ofNat 16 (0x2000 + i)) s

/-- A machine with the dot counters given. -/
def atDot (dot scanline : Nat) (ctrl : Byte) : State :=
  let m := machine []
  { m with ppu := { m.ppu with dot := dot, scanline := scanline, ctrl := ctrl } }

/-- A halted machine. -/
def halted : State :=
  let m := machine []
  { m with cpu := { m.cpu with halt := some { addr := 0x8000, op := 0x02 } } }

/-! ### Well-formedness: each check refuses an ill-formed configuration -/

theorem test_wellformed_default : defaultConfig.wf = true := by decide

theorem test_wellformed_prg_outside :
    (Config.prgOk { defaultConfig with prg := [(32768, 0x01)] }) = false := by decide

theorem test_wellformed_prg_16k :
    (Config.prgOk { defaultConfig with prgSize := .k16, prg := [(16384, 0x01)] }) = false := by decide

theorem test_wellformed_prg_unsorted :
    (Config.prgOk { defaultConfig with prg := [(2, 0x01), (1, 0x01)] }) = false := by decide

theorem test_wellformed_chr_zero_listed :
    (Config.chrOk { defaultConfig with chr := [(0, 0x00)] }) = false := by decide

theorem test_wellformed_cycles_zero :
    (Config.cyclesOk { defaultConfig with cycles := Vector.replicate 16 (Vector.replicate 16 0) }) = false := by
  decide

/-! ### Decoding: every constructor, from its word -/

theorem test_decode_row0 :
    ([[0x00], [0x01, 0x9C], [0x05, 0x9C], [0x06, 0x9C], [0x08], [0x09, 0x9C], [0x0A],
      [0x0D, 0x34, 0x12], [0x0E, 0x34, 0x12]] :
      List (List Byte)).map decode =
    [.ok .brk [], .ok (.oraIzx 0x9C) [], .ok (.oraZp 0x9C) [], .ok (.aslZp 0x9C) [],
      .ok .php [], .ok (.oraImm 0x9C) [], .ok .aslAcc [], .ok (.oraAbs 0x1234) [],
      .ok (.aslAbs 0x1234) []] := by decide

theorem test_decode_row1 :
    ([[0x10, 0x9C], [0x11, 0x9C], [0x15, 0x9C], [0x16, 0x9C], [0x18], [0x19, 0x34, 0x12],
      [0x1D, 0x34, 0x12], [0x1E, 0x34, 0x12]] :
      List (List Byte)).map decode =
    [.ok (.bpl 0x9C) [], .ok (.oraIzy 0x9C) [], .ok (.oraZpx 0x9C) [], .ok (.aslZpx 0x9C) [],
      .ok .clc [], .ok (.oraAby 0x1234) [], .ok (.oraAbx 0x1234) [], .ok (.aslAbx 0x1234) []] := by decide

theorem test_decode_row2 :
    ([[0x20, 0x34, 0x12], [0x21, 0x9C], [0x24, 0x9C], [0x25, 0x9C], [0x26, 0x9C], [0x28],
      [0x29, 0x9C], [0x2A], [0x2C, 0x34, 0x12], [0x2D, 0x34, 0x12], [0x2E, 0x34, 0x12]] :
      List (List Byte)).map decode =
    [.ok (.jsr 0x1234) [], .ok (.andIzx 0x9C) [], .ok (.bitZp 0x9C) [], .ok (.andZp 0x9C) [],
      .ok (.rolZp 0x9C) [], .ok .plp [], .ok (.andImm 0x9C) [], .ok .rolAcc [],
      .ok (.bitAbs 0x1234) [], .ok (.andAbs 0x1234) [], .ok (.rolAbs 0x1234) []] := by decide

theorem test_decode_row3 :
    ([[0x30, 0x9C], [0x31, 0x9C], [0x35, 0x9C], [0x36, 0x9C], [0x38], [0x39, 0x34, 0x12],
      [0x3D, 0x34, 0x12], [0x3E, 0x34, 0x12]] :
      List (List Byte)).map decode =
    [.ok (.bmi 0x9C) [], .ok (.andIzy 0x9C) [], .ok (.andZpx 0x9C) [], .ok (.rolZpx 0x9C) [],
      .ok .sec [], .ok (.andAby 0x1234) [], .ok (.andAbx 0x1234) [], .ok (.rolAbx 0x1234) []] := by decide

theorem test_decode_row4 :
    ([[0x40], [0x41, 0x9C], [0x45, 0x9C], [0x46, 0x9C], [0x48], [0x49, 0x9C], [0x4A],
      [0x4C, 0x34, 0x12], [0x4D, 0x34, 0x12], [0x4E, 0x34, 0x12]] :
      List (List Byte)).map decode =
    [.ok .rti [], .ok (.eorIzx 0x9C) [], .ok (.eorZp 0x9C) [], .ok (.lsrZp 0x9C) [],
      .ok .pha [], .ok (.eorImm 0x9C) [], .ok .lsrAcc [], .ok (.jmpAbs 0x1234) [],
      .ok (.eorAbs 0x1234) [], .ok (.lsrAbs 0x1234) []] := by decide

theorem test_decode_row5 :
    ([[0x50, 0x9C], [0x51, 0x9C], [0x55, 0x9C], [0x56, 0x9C], [0x58], [0x59, 0x34, 0x12],
      [0x5D, 0x34, 0x12], [0x5E, 0x34, 0x12]] :
      List (List Byte)).map decode =
    [.ok (.bvc 0x9C) [], .ok (.eorIzy 0x9C) [], .ok (.eorZpx 0x9C) [], .ok (.lsrZpx 0x9C) [],
      .ok .cli [], .ok (.eorAby 0x1234) [], .ok (.eorAbx 0x1234) [], .ok (.lsrAbx 0x1234) []] := by decide

theorem test_decode_row6 :
    ([[0x60], [0x61, 0x9C], [0x65, 0x9C], [0x66, 0x9C], [0x68], [0x69, 0x9C], [0x6A],
      [0x6C, 0x34, 0x12], [0x6D, 0x34, 0x12], [0x6E, 0x34, 0x12]] :
      List (List Byte)).map decode =
    [.ok .rts [], .ok (.adcIzx 0x9C) [], .ok (.adcZp 0x9C) [], .ok (.rorZp 0x9C) [],
      .ok .pla [], .ok (.adcImm 0x9C) [], .ok .rorAcc [], .ok (.jmpInd 0x1234) [],
      .ok (.adcAbs 0x1234) [], .ok (.rorAbs 0x1234) []] := by decide

theorem test_decode_row7 :
    ([[0x70, 0x9C], [0x71, 0x9C], [0x75, 0x9C], [0x76, 0x9C], [0x78], [0x79, 0x34, 0x12],
      [0x7D, 0x34, 0x12], [0x7E, 0x34, 0x12]] :
      List (List Byte)).map decode =
    [.ok (.bvs 0x9C) [], .ok (.adcIzy 0x9C) [], .ok (.adcZpx 0x9C) [], .ok (.rorZpx 0x9C) [],
      .ok .sei [], .ok (.adcAby 0x1234) [], .ok (.adcAbx 0x1234) [], .ok (.rorAbx 0x1234) []] := by decide

theorem test_decode_row8 :
    ([[0x81, 0x9C], [0x84, 0x9C], [0x85, 0x9C], [0x86, 0x9C], [0x88], [0x8A], [0x8C, 0x34, 0x12],
      [0x8D, 0x34, 0x12], [0x8E, 0x34, 0x12]] :
      List (List Byte)).map decode =
    [.ok (.staIzx 0x9C) [], .ok (.styZp 0x9C) [], .ok (.staZp 0x9C) [], .ok (.stxZp 0x9C) [],
      .ok .dey [], .ok .txa [], .ok (.styAbs 0x1234) [], .ok (.staAbs 0x1234) [],
      .ok (.stxAbs 0x1234) []] := by decide

theorem test_decode_row9 :
    ([[0x90, 0x9C], [0x91, 0x9C], [0x94, 0x9C], [0x95, 0x9C], [0x96, 0x9C], [0x98],
      [0x99, 0x34, 0x12], [0x9A], [0x9D, 0x34, 0x12]] :
      List (List Byte)).map decode =
    [.ok (.bcc 0x9C) [], .ok (.staIzy 0x9C) [], .ok (.styZpx 0x9C) [], .ok (.staZpx 0x9C) [],
      .ok (.stxZpy 0x9C) [], .ok .tya [], .ok (.staAby 0x1234) [], .ok .txs [],
      .ok (.staAbx 0x1234) []] := by decide

theorem test_decode_rowA :
    ([[0xA0, 0x9C], [0xA1, 0x9C], [0xA2, 0x9C], [0xA4, 0x9C], [0xA5, 0x9C], [0xA6, 0x9C], [0xA8],
      [0xA9, 0x9C], [0xAA], [0xAC, 0x34, 0x12], [0xAD, 0x34, 0x12], [0xAE, 0x34, 0x12]] :
      List (List Byte)).map decode =
    [.ok (.ldyImm 0x9C) [], .ok (.ldaIzx 0x9C) [], .ok (.ldxImm 0x9C) [], .ok (.ldyZp 0x9C) [],
      .ok (.ldaZp 0x9C) [], .ok (.ldxZp 0x9C) [], .ok .tay [], .ok (.ldaImm 0x9C) [],
      .ok .tax [], .ok (.ldyAbs 0x1234) [], .ok (.ldaAbs 0x1234) [], .ok (.ldxAbs 0x1234) []] := by decide

theorem test_decode_rowB :
    ([[0xB0, 0x9C], [0xB1, 0x9C], [0xB4, 0x9C], [0xB5, 0x9C], [0xB6, 0x9C], [0xB8],
      [0xB9, 0x34, 0x12], [0xBA], [0xBC, 0x34, 0x12], [0xBD, 0x34, 0x12], [0xBE, 0x34, 0x12]] :
      List (List Byte)).map decode =
    [.ok (.bcs 0x9C) [], .ok (.ldaIzy 0x9C) [], .ok (.ldyZpx 0x9C) [], .ok (.ldaZpx 0x9C) [],
      .ok (.ldxZpy 0x9C) [], .ok .clv [], .ok (.ldaAby 0x1234) [], .ok .tsx [],
      .ok (.ldyAbx 0x1234) [], .ok (.ldaAbx 0x1234) [], .ok (.ldxAby 0x1234) []] := by decide

theorem test_decode_rowC :
    ([[0xC0, 0x9C], [0xC1, 0x9C], [0xC4, 0x9C], [0xC5, 0x9C], [0xC6, 0x9C], [0xC8], [0xC9, 0x9C],
      [0xCA], [0xCC, 0x34, 0x12], [0xCD, 0x34, 0x12], [0xCE, 0x34, 0x12]] :
      List (List Byte)).map decode =
    [.ok (.cpyImm 0x9C) [], .ok (.cmpIzx 0x9C) [], .ok (.cpyZp 0x9C) [], .ok (.cmpZp 0x9C) [],
      .ok (.decZp 0x9C) [], .ok .iny [], .ok (.cmpImm 0x9C) [], .ok .dex [],
      .ok (.cpyAbs 0x1234) [], .ok (.cmpAbs 0x1234) [], .ok (.decAbs 0x1234) []] := by decide

theorem test_decode_rowD :
    ([[0xD0, 0x9C], [0xD1, 0x9C], [0xD5, 0x9C], [0xD6, 0x9C], [0xD8], [0xD9, 0x34, 0x12],
      [0xDD, 0x34, 0x12], [0xDE, 0x34, 0x12]] :
      List (List Byte)).map decode =
    [.ok (.bne 0x9C) [], .ok (.cmpIzy 0x9C) [], .ok (.cmpZpx 0x9C) [], .ok (.decZpx 0x9C) [],
      .ok .cld [], .ok (.cmpAby 0x1234) [], .ok (.cmpAbx 0x1234) [], .ok (.decAbx 0x1234) []] := by decide

theorem test_decode_rowE :
    ([[0xE0, 0x9C], [0xE1, 0x9C], [0xE4, 0x9C], [0xE5, 0x9C], [0xE6, 0x9C], [0xE8], [0xE9, 0x9C],
      [0xEA], [0xEC, 0x34, 0x12], [0xED, 0x34, 0x12], [0xEE, 0x34, 0x12]] :
      List (List Byte)).map decode =
    [.ok (.cpxImm 0x9C) [], .ok (.sbcIzx 0x9C) [], .ok (.cpxZp 0x9C) [], .ok (.sbcZp 0x9C) [],
      .ok (.incZp 0x9C) [], .ok .inx [], .ok (.sbcImm 0x9C) [], .ok .nop [],
      .ok (.cpxAbs 0x1234) [], .ok (.sbcAbs 0x1234) [], .ok (.incAbs 0x1234) []] := by decide

theorem test_decode_rowF :
    ([[0xF0, 0x9C], [0xF1, 0x9C], [0xF5, 0x9C], [0xF6, 0x9C], [0xF8], [0xF9, 0x34, 0x12],
      [0xFD, 0x34, 0x12], [0xFE, 0x34, 0x12]] :
      List (List Byte)).map decode =
    [.ok (.beq 0x9C) [], .ok (.sbcIzy 0x9C) [], .ok (.sbcZpx 0x9C) [], .ok (.incZpx 0x9C) [],
      .ok .sed [], .ok (.sbcAby 0x1234) [], .ok (.sbcAbx 0x1234) [], .ok (.incAbx 0x1234) []] := by decide

theorem test_decode_unmapped_and_short :
    [[0x02], [0xFF, 0x00], [0xA9], [0x8D, 0x00], []].map decode =
      [.unmapped 0x02, .unmapped 0xFF, .truncated, .truncated, .truncated] := by decide

theorem test_decode_leaves_the_rest : decode [0xA9, 0x05, 0x8D] = .ok (.ldaImm 0x05) [0x8D] := by decide

theorem test_encode_little_endian : encode (.staAbs 0x2000) = [0x8D, 0x00, 0x20] := by decide

theorem test_tableWord : decodeTableWord 24 0x20008D = some (.staAbs 0x2000) := by decide

theorem test_tableWord_short : decodeTableWord 8 0xFFEA = some .nop := by decide

theorem test_tableWord_unmapped : decodeTableWord 8 0x02 = none := by decide

/-- The first step after reset runs the word placed for it. -/
theorem test_withFetchWord :
    nextHas (fun t => t.cpu.a == 0x05 && t.cpu.pending == 1) (step (State.reset.withFetchWord 16 0x05A9)) = true := by
  decide

/-- The register window is skipped: the word is placed in program ROM. -/
theorem test_withFetchWord_window :
    ((({ State.reset with cpu := { State.reset.cpu with pc := 0x1FFE } } : State).withFetchWord 16 0x05A9)).cpu.pc =
      0x8000 := by decide

/-! ### Instructions: section 4 of 95_test_vectors.md -/

theorem test_V1_ldaImm :
    ran [0xA9, 0x00] 0x00 0x00 0x00 0xFF 0x34 [] =
      some ([0x00, 0x00, 0x00, 0xFF, 0x36], 0x8002, 2, []) := by decide

theorem test_V2_ldaImm :
    ran [0xA9, 0x80] 0x00 0x00 0x00 0xFF 0x34 [] =
      some ([0x80, 0x00, 0x00, 0xFF, 0xB4], 0x8002, 2, []) := by decide

theorem test_V3_ldaZp :
    ran [0xA5, 0x10] 0x00 0x00 0x00 0xFF 0x34 [(16, 0x7F)] =
      some ([0x7F, 0x00, 0x00, 0xFF, 0x34], 0x8002, 3, [(16, 0x7F)]) := by decide

theorem test_V4_ldaZpx :
    ran [0xB5, 0xFF] 0x00 0x02 0x00 0xFF 0x34 [(1, 0x55), (257, 0xEE)] =
      some ([0x55, 0x02, 0x00, 0xFF, 0x34], 0x8002, 4, [(1, 0x55), (257, 0xEE)]) := by decide

theorem test_V5_ldaAbx :
    ran [0xBD, 0xFF, 0x00] 0x00 0x01 0x00 0xFF 0x34 [(256, 0x99)] =
      some ([0x99, 0x01, 0x00, 0xFF, 0xB4], 0x8003, 5, [(256, 0x99)]) := by decide

theorem test_V6_ldaAbx :
    ran [0xBD, 0x10, 0x02] 0x00 0x01 0x00 0xFF 0x34 [(529, 0x01)] =
      some ([0x01, 0x01, 0x00, 0xFF, 0x34], 0x8003, 4, [(529, 0x01)]) := by decide

theorem test_V7_ldaAby :
    ran [0xB9, 0xFF, 0xFF] 0x00 0x00 0x01 0xFF 0x34 [(0, 0x42)] =
      some ([0x42, 0x00, 0x01, 0xFF, 0x34], 0x8003, 5, [(0, 0x42)]) := by decide

theorem test_V8_ldaIzx :
    ran [0xA1, 0xFE] 0x00 0x01 0x00 0xFF 0x34 [(0, 0x02), (255, 0x34), (564, 0x77)] =
      some ([0x77, 0x01, 0x00, 0xFF, 0x34], 0x8002, 6, [(0, 0x02), (255, 0x34), (564, 0x77)]) := by decide

theorem test_V9_ldaIzy :
    ran [0xB1, 0xFF] 0x00 0x00 0x01 0xFF 0x34 [(0, 0x02), (255, 0xFF), (768, 0x66)] =
      some ([0x66, 0x00, 0x01, 0xFF, 0x34], 0x8002, 6, [(0, 0x02), (255, 0xFF), (768, 0x66)]) := by decide

theorem test_V10_ldxZpy :
    ran [0xB6, 0x80] 0x00 0x00 0xFF 0xFF 0x34 [(127, 0x80)] =
      some ([0x00, 0x80, 0xFF, 0xFF, 0xB4], 0x8002, 4, [(127, 0x80)]) := by decide

theorem test_V11_ldyAbx :
    ran [0xBC, 0x00, 0x03] 0x00 0x05 0x11 0xFF 0x34 [] =
      some ([0x00, 0x05, 0x00, 0xFF, 0x36], 0x8003, 4, []) := by decide

theorem test_V13_ldaAbs :
    ran [0xAD, 0x00, 0x80] 0x00 0x00 0x00 0xFF 0x34 [] =
      some ([0xAD, 0x00, 0x00, 0xFF, 0xB4], 0x8003, 4, []) := by decide

theorem test_V14_ldaAbs :
    ran [0xAD, 0x00, 0x40] 0x55 0x00 0x00 0xFF 0x34 [] =
      some ([0x00, 0x00, 0x00, 0xFF, 0x36], 0x8003, 4, []) := by decide

theorem test_V16_staZp :
    ran [0x85, 0x10] 0x42 0x00 0x00 0xFF 0x34 [] =
      some ([0x42, 0x00, 0x00, 0xFF, 0x34], 0x8002, 3, [(16, 0x42)]) := by decide

theorem test_V17_staAbx :
    ran [0x9D, 0xFF, 0x02] 0x42 0x01 0x00 0xFF 0x34 [] =
      some ([0x42, 0x01, 0x00, 0xFF, 0x34], 0x8003, 5, [(768, 0x42)]) := by decide

theorem test_V19_staAbs :
    ran [0x8D, 0x05, 0x80] 0x42 0x00 0x00 0xFF 0x34 [] =
      some ([0x42, 0x00, 0x00, 0xFF, 0x34], 0x8003, 4, [(5, 0x42)]) := by decide

theorem test_V20_staIzy :
    ran [0x91, 0x20] 0x33 0x00 0x20 0xFF 0x34 [(32, 0xF0), (33, 0x02)] =
      some ([0x33, 0x00, 0x20, 0xFF, 0x34], 0x8002, 6, [(32, 0xF0), (33, 0x02), (784, 0x33)]) := by decide

theorem test_V21_stxZpy :
    ran [0x96, 0xF0] 0x00 0x11 0x20 0xFF 0x34 [] =
      some ([0x00, 0x11, 0x20, 0xFF, 0x34], 0x8002, 4, [(16, 0x11)]) := by decide

theorem test_V22_styAbs :
    ran [0x8C, 0x34, 0x02] 0x00 0x00 0x80 0xFF 0x34 [] =
      some ([0x00, 0x00, 0x80, 0xFF, 0x34], 0x8003, 4, [(564, 0x80)]) := by decide

theorem test_V23_tax :
    ran [0xAA] 0x00 0x55 0x00 0xFF 0x34 [] =
      some ([0x00, 0x00, 0x00, 0xFF, 0x36], 0x8001, 2, []) := by decide

theorem test_V24_txs :
    ran [0x9A] 0x00 0x00 0x00 0xFF 0x34 [] =
      some ([0x00, 0x00, 0x00, 0x00, 0x34], 0x8001, 2, []) := by decide

theorem test_V25_tsx :
    ran [0xBA] 0x00 0x00 0x00 0x80 0x34 [] =
      some ([0x00, 0x80, 0x00, 0x80, 0xB4], 0x8001, 2, []) := by decide

theorem test_V26_tya :
    ran [0x98] 0x01 0x00 0xFF 0xFF 0x34 [] =
      some ([0xFF, 0x00, 0xFF, 0xFF, 0xB4], 0x8001, 2, []) := by decide

theorem test_V30_adcImm :
    ran [0x69, 0x01] 0xFF 0x00 0x00 0xFF 0x34 [] =
      some ([0x00, 0x00, 0x00, 0xFF, 0x37], 0x8002, 2, []) := by decide

theorem test_V31_adcImm :
    ran [0x69, 0x01] 0x7F 0x00 0x00 0xFF 0x34 [] =
      some ([0x80, 0x00, 0x00, 0xFF, 0xF4], 0x8002, 2, []) := by decide

theorem test_V35_sbcImm :
    ran [0xE9, 0x01] 0x00 0x00 0x00 0xFF 0x35 [] =
      some ([0xFF, 0x00, 0x00, 0xFF, 0xB4], 0x8002, 2, []) := by decide

theorem test_V36_sbcImm :
    ran [0xE9, 0x01] 0x80 0x00 0x00 0xFF 0x35 [] =
      some ([0x7F, 0x00, 0x00, 0xFF, 0x75], 0x8002, 2, []) := by decide

theorem test_V39_andImm :
    ran [0x29, 0x0F] 0xF0 0x00 0x00 0xFF 0x34 [] =
      some ([0x00, 0x00, 0x00, 0xFF, 0x36], 0x8002, 2, []) := by decide

theorem test_V40_oraImm :
    ran [0x09, 0x80] 0x01 0x00 0x00 0xFF 0x34 [] =
      some ([0x81, 0x00, 0x00, 0xFF, 0xB4], 0x8002, 2, []) := by decide

theorem test_V41_eorImm :
    ran [0x49, 0xFF] 0xFF 0x00 0x00 0xFF 0x34 [] =
      some ([0x00, 0x00, 0x00, 0xFF, 0x36], 0x8002, 2, []) := by decide

theorem test_V42_cmpImm :
    ran [0xC9, 0x40] 0x40 0x00 0x00 0xFF 0x34 [] =
      some ([0x40, 0x00, 0x00, 0xFF, 0x37], 0x8002, 2, []) := by decide

theorem test_V43_cmpImm :
    ran [0xC9, 0x41] 0x40 0x00 0x00 0xFF 0x34 [] =
      some ([0x40, 0x00, 0x00, 0xFF, 0xB4], 0x8002, 2, []) := by decide

theorem test_V45_cpxImm :
    ran [0xE0, 0x10] 0x00 0x20 0x00 0xFF 0x34 [] =
      some ([0x00, 0x20, 0x00, 0xFF, 0x35], 0x8002, 2, []) := by decide

theorem test_V46_cpyZp :
    ran [0xC4, 0x10] 0x00 0x00 0x00 0xFF 0x34 [(16, 0xFF)] =
      some ([0x00, 0x00, 0x00, 0xFF, 0x34], 0x8002, 3, [(16, 0xFF)]) := by decide

theorem test_V47_bitZp :
    ran [0x24, 0x10] 0x3F 0x00 0x00 0xFF 0x34 [(16, 0xC0)] =
      some ([0x3F, 0x00, 0x00, 0xFF, 0xF6], 0x8002, 3, [(16, 0xC0)]) := by decide

theorem test_V48_bitAbs :
    ran [0x2C, 0x00, 0x03] 0x01 0x00 0x00 0xFF 0xF4 [(768, 0x01)] =
      some ([0x01, 0x00, 0x00, 0xFF, 0x34], 0x8003, 4, [(768, 0x01)]) := by decide

theorem test_V49_incZp :
    ran [0xE6, 0x10] 0x00 0x00 0x00 0xFF 0x34 [(16, 0xFF)] =
      some ([0x00, 0x00, 0x00, 0xFF, 0x36], 0x8002, 5, []) := by decide

theorem test_V50_decAbs :
    ran [0xCE, 0x00, 0x02] 0x00 0x00 0x00 0xFF 0x34 [] =
      some ([0x00, 0x00, 0x00, 0xFF, 0xB4], 0x8003, 6, [(512, 0xFF)]) := by decide

theorem test_V51_inx :
    ran [0xE8] 0x00 0xFF 0x00 0xFF 0x34 [] =
      some ([0x00, 0x00, 0x00, 0xFF, 0x36], 0x8001, 2, []) := by decide

theorem test_V52_dey :
    ran [0x88] 0x00 0x00 0x00 0xFF 0x34 [] =
      some ([0x00, 0x00, 0xFF, 0xFF, 0xB4], 0x8001, 2, []) := by decide

theorem test_V53_incAbx :
    ran [0xFE, 0xFF, 0x02] 0x00 0x01 0x00 0xFF 0x34 [(768, 0x7F)] =
      some ([0x00, 0x01, 0x00, 0xFF, 0xB4], 0x8003, 7, [(768, 0x80)]) := by decide

theorem test_V60_aslAcc :
    ran [0x0A] 0x80 0x00 0x00 0xFF 0x34 [] =
      some ([0x00, 0x00, 0x00, 0xFF, 0x37], 0x8001, 2, []) := by decide

theorem test_V61_lsrAcc :
    ran [0x4A] 0x01 0x00 0x00 0xFF 0x34 [] =
      some ([0x00, 0x00, 0x00, 0xFF, 0x37], 0x8001, 2, []) := by decide

theorem test_V62_rolAcc :
    ran [0x2A] 0x80 0x00 0x00 0xFF 0x35 [] =
      some ([0x01, 0x00, 0x00, 0xFF, 0x35], 0x8001, 2, []) := by decide

theorem test_V63_rorAcc :
    ran [0x6A] 0x01 0x00 0x00 0xFF 0x34 [] =
      some ([0x00, 0x00, 0x00, 0xFF, 0x37], 0x8001, 2, []) := by decide

theorem test_V64_aslZp :
    ran [0x06, 0x10] 0x00 0x00 0x00 0xFF 0x34 [(16, 0x41)] =
      some ([0x00, 0x00, 0x00, 0xFF, 0xB4], 0x8002, 5, [(16, 0x82)]) := by decide

theorem test_V65_rorAbs :
    ran [0x6E, 0x00, 0x02] 0x00 0x00 0x00 0xFF 0x35 [] =
      some ([0x00, 0x00, 0x00, 0xFF, 0xB4], 0x8003, 6, [(512, 0x80)]) := by decide

theorem test_V66_lsrZpx :
    ran [0x56, 0xFF] 0x00 0x01 0x00 0xFF 0x34 [(0, 0xFF)] =
      some ([0x00, 0x01, 0x00, 0xFF, 0x35], 0x8002, 6, [(0, 0x7F)]) := by decide

theorem test_V70_jmpAbs :
    ran [0x4C, 0x34, 0x12] 0x00 0x00 0x00 0xFF 0x34 [] =
      some ([0x00, 0x00, 0x00, 0xFF, 0x34], 0x1234, 3, []) := by decide

theorem test_V71_jmpInd :
    ran [0x6C, 0xFF, 0x02] 0x00 0x00 0x00 0xFF 0x34 [(512, 0x12), (767, 0x34), (768, 0x56)] =
      some ([0x00, 0x00, 0x00, 0xFF, 0x34], 0x1234, 5, [(512, 0x12), (767, 0x34), (768, 0x56)]) := by decide

theorem test_V72_jmpInd :
    ran [0x6C, 0x00, 0x02] 0x00 0x00 0x00 0xFF 0x34 [(512, 0x78), (513, 0x56)] =
      some ([0x00, 0x00, 0x00, 0xFF, 0x34], 0x5678, 5, [(512, 0x78), (513, 0x56)]) := by decide

theorem test_V73_jsr :
    ran [0x20, 0x34, 0x12] 0x00 0x00 0x00 0xFF 0x34 [] =
      some ([0x00, 0x00, 0x00, 0xFD, 0x34], 0x1234, 6, [(510, 0x02), (511, 0x80)]) := by decide

theorem test_V74_jsr :
    ran [0x20, 0x34, 0x12] 0x00 0x00 0x00 0x00 0x34 [] =
      some ([0x00, 0x00, 0x00, 0xFE, 0x34], 0x1234, 6, [(256, 0x80), (511, 0x02)]) := by decide

theorem test_V75_rts :
    ran [0x60] 0x00 0x00 0x00 0xFD 0x34 [(510, 0x02), (511, 0x80)] =
      some ([0x00, 0x00, 0x00, 0xFF, 0x34], 0x8003, 6, [(510, 0x02), (511, 0x80)]) := by decide

theorem test_V76_rts :
    ran [0x60] 0x00 0x00 0x00 0xFD 0x34 [(510, 0xFF), (511, 0xFF)] =
      some ([0x00, 0x00, 0x00, 0xFF, 0x34], 0x0000, 6, [(510, 0xFF), (511, 0xFF)]) := by decide

theorem test_V77_bne :
    ran [0xD0, 0xFE] 0x00 0x00 0x00 0xFF 0x34 [] =
      some ([0x00, 0x00, 0x00, 0xFF, 0x34], 0x8000, 3, []) := by decide

theorem test_V78_beq :
    ran [0xF0, 0x10] 0x00 0x00 0x00 0xFF 0x34 [] =
      some ([0x00, 0x00, 0x00, 0xFF, 0x34], 0x8002, 2, []) := by decide

theorem test_V80_bpl :
    ran [0x10, 0x80] 0x00 0x00 0x00 0xFF 0x34 [] =
      some ([0x00, 0x00, 0x00, 0xFF, 0x34], 0x7F82, 4, []) := by decide

theorem test_V81_bmi :
    ran [0x30, 0x7F] 0x00 0x00 0x00 0xFF 0xB4 [] =
      some ([0x00, 0x00, 0x00, 0xFF, 0xB4], 0x8081, 3, []) := by decide

theorem test_V82_bvs :
    ran [0x70, 0x05] 0x00 0x00 0x00 0xFF 0x74 [] =
      some ([0x00, 0x00, 0x00, 0xFF, 0x74], 0x8007, 3, []) := by decide

theorem test_V83_bcs :
    ran [0xB0, 0x05] 0x00 0x00 0x00 0xFF 0x34 [] =
      some ([0x00, 0x00, 0x00, 0xFF, 0x34], 0x8002, 2, []) := by decide

theorem test_V90_pha :
    ran [0x48] 0x42 0x00 0x00 0xFF 0x34 [] =
      some ([0x42, 0x00, 0x00, 0xFE, 0x34], 0x8001, 3, [(511, 0x42)]) := by decide

theorem test_V91_pha :
    ran [0x48] 0x42 0x00 0x00 0x00 0x34 [] =
      some ([0x42, 0x00, 0x00, 0xFF, 0x34], 0x8001, 3, [(256, 0x42)]) := by decide

theorem test_V92_php :
    ran [0x08] 0x00 0x00 0x00 0xFF 0x34 [] =
      some ([0x00, 0x00, 0x00, 0xFE, 0x34], 0x8001, 3, [(511, 0x34)]) := by decide

theorem test_V93_pla :
    ran [0x68] 0x55 0x00 0x00 0xFE 0x34 [] =
      some ([0x00, 0x00, 0x00, 0xFF, 0x36], 0x8001, 4, []) := by decide

theorem test_V94_pla :
    ran [0x68] 0x00 0x00 0x00 0xFF 0x34 [(256, 0x80)] =
      some ([0x80, 0x00, 0x00, 0x00, 0xB4], 0x8001, 4, [(256, 0x80)]) := by decide

theorem test_V95_plp :
    ran [0x28] 0x00 0x00 0x00 0xFE 0x34 [(511, 0xC3)] =
      some ([0x00, 0x00, 0x00, 0xFF, 0xF3], 0x8001, 4, [(511, 0xC3)]) := by decide

theorem test_V96_plp :
    ran [0x28] 0x00 0x00 0x00 0xFE 0x34 [] =
      some ([0x00, 0x00, 0x00, 0xFF, 0x30], 0x8001, 4, []) := by decide

theorem test_V97_sec :
    ran [0x38] 0x00 0x00 0x00 0xFF 0x34 [] =
      some ([0x00, 0x00, 0x00, 0xFF, 0x35], 0x8001, 2, []) := by decide

theorem test_V98_cli :
    ran [0x58] 0x00 0x00 0x00 0xFF 0x34 [] =
      some ([0x00, 0x00, 0x00, 0xFF, 0x30], 0x8001, 2, []) := by decide

theorem test_V99_sed :
    ran [0xF8] 0x00 0x00 0x00 0xFF 0x34 [] =
      some ([0x00, 0x00, 0x00, 0xFF, 0x3C], 0x8001, 2, []) := by decide

theorem test_V100_clv :
    ran [0xB8] 0x00 0x00 0x00 0xFF 0x74 [] =
      some ([0x00, 0x00, 0x00, 0xFF, 0x34], 0x8001, 2, []) := by decide

theorem test_V101_nop :
    ran [0xEA] 0x00 0x00 0x00 0xFF 0x34 [] =
      some ([0x00, 0x00, 0x00, 0xFF, 0x34], 0x8001, 2, []) := by decide

theorem test_V103_rti :
    ran [0x40] 0x00 0x00 0x00 0xFC 0x34 [(509, 0xC3), (510, 0x02), (511, 0x80)] =
      some ([0x00, 0x00, 0x00, 0xFF, 0xF3], 0x8002, 6, [(509, 0xC3), (510, 0x02), (511, 0x80)]) := by decide

theorem test_V106_staAbs :
    ran [0x8D, 0x01, 0x20] 0x08 0x00 0x00 0xFF 0x34 [] =
      some ([0x08, 0x00, 0x00, 0xFF, 0x34], 0x8003, 4, [(1, 0x08)]) := by decide

/-- V79: the displacement crosses into the next page. -/
theorem test_V79_bcc_crosses :
    (let m := machine []
     shown (cpuCycle { m with
       cfg := { m.cfg with prg := [(0xF0, 0x90), (0xF1, 0x10)] }, cpu := { m.cpu with pc := 0x80F0 } })) =
      some ([0x00, 0x00, 0x00, 0xFF, 0x34], 0x8102, 4, []) := by decide

/-- V102: BRK, with the vector 0x9000. -/
theorem test_V102_brk :
    (let m := machine [0x00]
     shown (cpuCycle { m with cfg := { m.cfg with prg := [(0x7FFF, 0x90)] } })) =
      some ([0x00, 0x00, 0x00, 0xFC, 0x34], 0x9000, 7, [(0x1FD, 0x34), (0x1FE, 0x02), (0x1FF, 0x80)]) := by decide

/-- V104: the halt record. -/
theorem test_V104_halt :
    nextHas (fun t => t.cpu.halt == some { addr := 0x8000, op := 0x02 }) (cpuCycle (machine [0x02])) = true := by
  decide

/-! ### Agents: section 4 and 5 vectors -/

theorem test_M1_address_latch :
    (let s := put 6 0x08 (put 6 0x21 (machine []))
     (s.ppu.t, s.ppu.v, s.ppu.w, s.ram)) = (0x2108, 0x2108, false, [(6, 0x08)]) := by decide

theorem test_M2_wrap_of_v :
    (let s := put 7 0x5A (put 6 0xFF (put 6 0xFF (machine [])))
     (s.ppu.t, s.ppu.v, s.vram)) = (0x3FFF, 0x0000, [(0x7FF, 0x5A)]) := by decide

theorem test_M2b_increment_32 :
    (get 7 (put 6 0xFF (put 6 0x3F (put 0 0x04 (machine []))))).state.ppu.v = 0x001F := by decide

theorem test_M2c_shared_toggle :
    (let s := put 6 0x34 (put 6 0x12 (put 5 0x11 (machine [])))
     (s.ppu.t, s.ppu.v, s.ppu.w, (get 2 s).state.ppu.w)) = (0x3412, 0x0012, true, false) := by decide

theorem test_M2d_unbuffered_read :
    (let s := put 7 0x77 (put 6 0x00 (put 6 0x28 (machine [])))
     let r := get 7 (put 6 0x00 (put 6 0x20 s))
     (s.vram, s.ppu.v, r.value, r.state.ppu.v)) = ([(0, 0x77)], 0x2801, 0x77, 0x2001) := by decide

theorem test_M2f_oam_port :
    (let s := put 4 0xCC (put 4 0xBB (put 4 0xAA (put 3 0xFE (machine []))))
     (s.ppu.oam, s.ppu.oamaddr, s.ram, (get 4 s).value)) =
      ([(0x00, 0xCC), (0xFE, 0xAA), (0xFF, 0xBB)], 0x01, [(3, 0xFE), (4, 0xCC)], 0x00) := by decide

theorem test_M2g_vblank_cleared_by_register_0 :
    (let m := machine []
     let r := get 2 (put 0 0x90 { m with ppu := { m.ppu with status := 0x80 } })
     let q := get 0 r.state
     (r.value, r.state.ppu.status, q.value, q.state.ppu.status)) = (0x80, 0x80, 0x90, 0x00) := by decide

/-- M4: the four cycles of the first two bytes. -/
theorem test_M4_dma_phases :
    (let m := machine []
     let s := cpuWrite 0x4014 0x03 { m with ram := [(0x300, 0xAB), (0x301, 0xCD)] }
     let s4 := driveDma 4 s
     ((driveDma 1 s).dma.map DmaSession.latch, s4.ppu.oam, s4.dma.map DmaSession.cursor, s4.ppu.oamaddr)) =
      (some 0xAB, [(0, 0xAB), (1, 0xCD)], some 2, 0x02) := by decide

/-- T1: the last dot of a frame, the interrupt not enabled. -/
theorem test_T1_frame_wrap :
    (let t := ppuDot (atDot 340 261 0x00)
     (t.ppu.dot, t.ppu.scanline, t.ppu.status, t.ppu.frame, t.ppu.frameReady, t.cpu.pending)) =
      (0, 0, 0x80, 1, true, 0) := by decide

/-- T2: the last dot of a frame with the interrupt enabled. -/
theorem test_T2_frame_interrupt :
    (let m := atDot 340 261 0x80
     let t := ppuDot { m with cpu := { m.cpu with pc := 0x1234, p := 0xF5, s := 0xFF } }
     (t.ram, t.cpu.s, t.cpu.pc, t.cpu.p, t.cpu.pending)) =
      ([(0x1FD, 0xF5), (0x1FE, 0x34), (0x1FF, 0x12)], 0xFC, 0x0000, 0xF5, 7) := by decide

/-- X1: the first two pixels of tile 1, row 0. -/
theorem test_X1_pixels :
    (let m := machine []
     let s := { m with
       cfg := { m.cfg with chr := [(0x10, 0xC0), (0x18, 0x80)] }, vram := [(0, 0x01)]
       ppu := { m.ppu with mask := 0x08 } }
     (driveDots 3 s).ppu.fb) =
      [(0, ⟨255, 255, 255⟩), (1, ⟨85, 85, 85⟩), (2, ⟨0, 0, 0⟩)] := by decide

/-- X3: rendering off, no pixel. -/
theorem test_X3_rendering_off : (driveDots 3 (machine [])).ppu.fb = [] := by decide

/-- A write of an unimplemented internal register is reported and changes RAM alone (20_memory.md R94). -/
theorem test_internal_register_report :
    (let s := cpuWrite 0x4015 0x0F (machine [])
     (s.ram, s.dma, s.reports)) = ([(0x15, 0x0F)], none, [{ addr := 0x4015, value := 0x0F }]) := by decide

/-- A header: two program banks, one pattern bank, vertical mirroring, mapper 0x41 (20_memory.md R108). -/
theorem test_image_header :
    parseHeader [0x4E, 0x45, 0x53, 0x1A, 0x02, 0x01, 0x11, 0x40, 0, 0, 0, 0, 0, 0, 0, 0] =
      .ok
        { programBanks := 2, patternBanks := 1, verticalMirroring := true, battery := false,
          mapper := 0x41 } := by rfl

theorem test_image_bad_magic :
    parseImage [0x4E, 0x45, 0x53, 0x1B, 0x02, 0x01, 0x11, 0x40, 0, 0, 0, 0, 0, 0, 0, 0] = .error .badMagic := by
  rfl

/-- The magic sequence alone, and one byte less than a header: truncated, not a wrong magic (20_memory.md R109). -/
theorem test_image_truncated_header :
    parseImage [0x4E, 0x45, 0x53, 0x1A] = .error .truncated ∧
      parseImage [0x4E, 0x45, 0x53, 0x1A, 0x00, 0x00, 0, 0, 0, 0, 0, 0, 0, 0, 0] = .error .truncated :=
  ⟨rfl, rfl⟩

/-- A header that announces data, and none follows (20_memory.md R109). -/
theorem test_image_truncated_data :
    parseImage [0x4E, 0x45, 0x53, 0x1A, 0x01, 0x01, 0, 0, 0, 0, 0, 0, 0, 0, 0, 0] = .error .truncated :=
  (parseImage_sized rfl (by decide)).1 (by decide)

/-! ### Witnesses: states and operands that meet the hypotheses of the statements -/

theorem witness_DecodedBytesAreTheEncoding :
    decode [0x8D, 0x00, 0x20, 0x02] = .ok (.staAbs 0x2000) [0x02] := by decide

/-- Each clause at the edges of its ranges. -/
theorem witness_MainBusReadMap :
    (let m := machine [0x11]
     let s := { m with
       ram := [(0, 0x22), (0x7FF, 0x33)], ppu := { m.ppu with ctrl := 0x44, addrLast := 0x55, dataLast := 0x66 } }
     [0x0000, 0x1FFF, 0x57FF, 0x5FFF, 0x2000, 0x3FFE, 0x6000, 0x7FFE, 0x8000, 0xFFFF, 0x4000].map
       fun a => (busRead a s).value) =
      [0x22, 0x33, 0x33, 0x33, 0x44, 0x55, 0x44, 0x55, 0x11, 0x00, 0x00] := by decide

theorem witness_FloatingReadReturnsFloat :
    (machine []).cfg.float = .constant 0x00 ∧ State.reset.cfg.float = .draw := by decide

/-- Both clauses at the edges of their ranges. -/
theorem witness_PictureBusMap :
    (let m := machine []
     let s := { m with cfg := { m.cfg with chr := [(0x1FFF, 0x11)] }, vram := [(0, 0x22), (0x7FF, 0x33)] }
     [0x0000, 0x1FFF, 0x2000, 0x3FFF].map fun a => (picRead a s).value) = [0x00, 0x11, 0x22, 0x33] := by decide

/-- The three clauses at the edges of their ranges: whether a report, whether a session. -/
theorem witness_ProcessorWritesAreIntercepted :
    ([0x3FFF, 0x4000, 0x4013, 0x4014, 0x4015, 0x401F, 0x4020].map fun a =>
      let s := cpuWrite a 0x07 (machine [])
      (s.reports.length, s.dma.isSome)) =
      [(0, false), (1, false), (1, false), (0, true), (1, false), (1, false), (0, false)] := by decide

/-- A mirror of the written cell, and another cell. -/
theorem witness_RamReadAfterWrite :
    (0x1FFF#16).toNat ≤ 0x1FFF ∧ (0x07FF#16).toNat ≤ 0x1FFF ∧ (0x0000#16).toNat ≤ 0x1FFF ∧
      (busRead 0x07FF (busWrite 0x1FFF 0x5A (machine []))).value = 0x5A ∧
      (busRead 0x0000 (busWrite 0x1FFF 0x5A (machine []))).value = 0x00 := by decide

/-- Each side effect happens where it may. -/
theorem witness_BusReadFrame :
    (let m := machine []
     let s := { m with ppu := { m.ppu with status := 0x80, w := true } }
     ((busRead 0x3FF8 s).state.ppu.status, (busRead 0x6002 s).state.ppu.w, (busRead 0x2007 s).state.ppu.v,
       (busRead 0x4000 State.reset).state.floatReads)) = (0x00, false, 1, 1) := by decide

/-- Each register at an address of its own. -/
theorem witness_PictureRegisterReads :
    (let m := machine []
     let s := { m with
       vram := [(0, 0x77)]
       ppu := { m.ppu with
         ctrl := 0x10, mask := 0x11, status := 0x80, oamaddr := 0xFF, oam := [(0xFF, 0x14)], scrollLast := 0x15
         addrLast := 0x16, v := 0x2000 } }
     [0x2000, 0x3FF9, 0x2002, 0x2003, 0x2004, 0x2005, 0x2006, 0x7FFF].map
       fun a => ((PpuReg.ofAddr a).read s).value) = [0x10, 0x11, 0x80, 0xFF, 0x14, 0x15, 0x16, 0x77] := by decide

/-- The two halves of a register-6 write. -/
theorem witness_PictureRegisterWrites :
    (let first := put 6 0xFF (machine [])
     let second := put 6 0x34 first
     (first.ppu.t, first.ppu.w, second.ppu.t, second.ppu.v, second.ppu.w)) =
      (0x3F00, true, 0x3F34, 0x3F34, false) := by decide

theorem witness_LoadsWriteTheRegisterAndNZ :
    [Instr.ldaIzy 0x10, .ldxZpy 0x10, .ldyAbx 0x1234].map Instr.mnemonic = [.lda, .ldx, .ldy] := by decide

theorem witness_StoresWriteTheRegisterToMemory :
    [Instr.staIzx 0x10, .stxZpy 0x10, .styAbs 0x1234].map Instr.mnemonic = [.sta, .stx, .sty] := by decide

theorem witness_AdcAddsWithCarry :
    (Instr.adcImm 0x80).mnemonic = .adc ∧
      ran [0x69, 0x80] 0x80 0x00 0x00 0xFF 0x35 [] = some ([0x01, 0x00, 0x00, 0xFF, 0x75], 0x8002, 2, []) := by decide

theorem witness_SbcSubtractsWithBorrow :
    (Instr.sbcImm 0x00).mnemonic = .sbc ∧
      ran [0xE9, 0x00] 0x80 0x00 0x00 0xFF 0x34 [] = some ([0x7F, 0x00, 0x00, 0xFF, 0x75], 0x8002, 2, []) := by decide

theorem witness_LogicCombinesBitByBit :
    ∀ i ∈ [Instr.andImm 0x0F, .oraZp 0x10, .eorAbx 0x0200], i.mnemonic ∈ [.and, .ora, .eor] := by decide

theorem witness_ComparesSetCarryZeroNegative :
    ∀ i ∈ [Instr.cmpIzy 0x10, .cpxImm 0x80, .cpyAbs 0x0200], i.mnemonic ∈ [.cmp, .cpx, .cpy] := by decide

theorem witness_BitTestsTheOperand : (Instr.bitAbs 0x0300).mnemonic = .bit := by decide

theorem witness_MemoryIncrementsWrapAndSetNZ :
    ∀ i ∈ [Instr.incAbx 0x02FF, .decZp 0x10], i.mnemonic ∈ [.inc, .dec] := by decide

theorem witness_ShiftsMoveOneBitThroughTheCarry :
    ∀ i ∈ [Instr.aslAcc, .lsrZp 0x10, .rolAbx 0x0200, .rorAbs 0x0300], i.mnemonic ∈ [.asl, .lsr, .rol, .ror] := by
  decide

theorem witness_BranchesTestTheirFlag :
    ∀ i ∈ [Instr.bcc 0x80, .bcs 0x7F, .beq 0x00, .bne 0xFE, .bmi 0x01, .bpl 0xFF, .bvc 0x10, .bvs 0x90],
      i.mnemonic ∈ [.bcc, .bcs, .beq, .bne, .bmi, .bpl, .bvc, .bvs] := by decide

/-- Both clauses: a running and a halted processor. -/
theorem witness_NmiEntersItsHandler :
    (machine []).cpu.halt = none ∧ (nmi (machine [])).cpu.s = 0xFC ∧ halted.cpu.halt ≠ none ∧ nmi halted = halted := by
  decide

theorem witness_RtiUndoesTheEntry :
    (machine []).cpu.halt = none ∧ nextHas (fun u => u.cpu.pc == 0x8000) (exec .rti (nmi (machine []))) = true := by
  decide

theorem witness_RegistersChangeOnlyAsListed :
    ∃ t, exec (.staAbs 0x2004) (machine []) = .next t ∧ (Instr.staAbs 0x2004).mnemonic ∉ [.lda, .txa] :=
  ⟨_, rfl, by decide⟩

theorem witness_FlagsChangeOnlyAsListed :
    ∃ t, exec (.cmpImm 0x00) (machine []) = .next t ∧ (Instr.cmpImm 0x00).mnemonic ∉ [.plp, .rti] ∧
      t.cpu.p.getLsbD 0 = true :=
  ⟨_, rfl, by decide, by decide⟩

theorem witness_NonStoringFormsLeaveMemory :
    ∃ t, storesOperand (.ldaAbs 0x2007) = false ∧ pushes (.ldaAbs 0x2007) = false ∧
      exec (.ldaAbs 0x2007) (machine []) = .next t ∧ t.ppu.v = 1 :=
  ⟨_, by decide, by decide, rfl, by decide⟩

/-- A read-modify-write form whose address reaches RAM and OAM. -/
theorem witness_StoringFormsChangeOnlyTheAddressedByte :
    ∃ t, storesOperand (.incAbs 0x2004) = true ∧ (Instr.incAbs 0x2004).operand = .mem (.abs 0x2004) ∧
      exec (.incAbs 0x2004) (machine []) = .next t ∧ t.ram = [(4, 0x01)] ∧ t.ppu.oam = [(0, 0x01)] :=
  ⟨_, by decide, by decide, rfl, by decide, by decide⟩

/-- The three pushing shapes, with the stack pointer's wrap. -/
theorem witness_PushingFormsChangeOnlyTheStackBytes :
    (∀ i ∈ [Instr.pha, .php, .jsr 0x9000, .brk], pushes i = true) ∧
      (let m := machine []
       nextHas (fun t => t.ram == [(0x100, 0x7F), (0x1FF, 0xFF)])
         (exec (.jsr 0x9000) { m with cpu := { m.cpu with s := 0x00 } })) = true := by decide

theorem witness_StepRunsTheDecodedInstruction :
    (let s := machine [0x8D, 0x00, 0x20]
     s.dma = none ∧ s.cpu.halt = none ∧ s.cpu.pending = 0 ∧
       decode (fetchBytes 3 s).bytes = .ok (.staAbs 0x2000) []) := by decide

theorem witness_UnmappedOpcodeHalts :
    (let s := machine [0x02]
     s.cpu.halt = none ∧ s.cpu.pending = 0 ∧ decodeOpcode (cpuRead s.cpu.pc s).value = none) := by decide

/-- A halted processor, with and without a session. -/
theorem witness_HaltIsPermanent :
    halted.cpu.halt ≠ none ∧ halted.dma = none ∧ (dmaBegin 0x03 halted).cpu.halt ≠ none ∧
      (dmaBegin 0x03 halted).dma.isSome = true ∧
      nextHas (fun t => t.cpu == halted.cpu && t.ppu.dot == 3) (step (dmaBegin 0x03 halted)) = true := by decide

/-- The three clauses: a session, a fetching and an idle processor. -/
theorem witness_SystemCycleOrder :
    (dmaBegin 0x03 (machine [])).dma.isSome = true ∧ (machine []).dma = none ∧
      (let m := machine []
       let s := { m with cpu := { m.cpu with pending := 2 } }
       s.dma = none ∧ s.cpu.halt = none ∧ 0 < s.cpu.pending ∧
         nextHas (fun t => t.cpu.pending == 1 && t.ppu.dot == 3) (step s) = true) := by decide

/-- Both phases, and the last byte of a page. -/
theorem witness_DmaCycleAlternates :
    (let d : DmaSession :=
       { sourceBase := 0x0300, destination := 0x2004, length := 256, cursor := 255, phase := .fetch, latch := 0x00 }
     let s := dmaCycle d (machine [])
     d.phase = .fetch ∧ s.dma = some { d with phase := .store } ∧
       (dmaCycle { d with phase := .store } s).dma = none) := by decide

theorem witness_DmaFromRomCopiesTheRom :
    0x80 ≤ (0x80#8).toNat ∧ 0x80 ≤ (0xFF#8).toNat ∧
      (driveDma 2 (dmaBegin 0x80 (machine [0x5A]))).ppu.oam = [(0, 0x5A)] := by decide

theorem witness_PixelProduction :
    (let m := machine []
     let s := { m with cfg := { m.cfg with chr := [(7, 0x01)] } }
     255 < 256 ∧ 239 < 240 ∧ (producePixel 255 239 s).pixel 255 239 = ⟨85, 85, 85⟩) := by decide

/-- The three clauses at the edges of the counters. -/
theorem witness_DotAdvancesTheCounters :
    ([(339, 261), (340, 260), (340, 261), (0, 0)].map fun c =>
      let t := ppuDot (atDot c.1 c.2 0x00)
      (t.ppu.dot, t.ppu.scanline)) = [(340, 261), (0, 261), (0, 0), (1, 0)] := by decide

theorem witness_FrameWrapRaisesTheInterrupt :
    (atDot 0 0 0x80).ppu.ctrl.getLsbD 7 = true ∧ (atDot 0 0 0x7F).ppu.ctrl.getLsbD 7 = false := by decide

/-- One dot before the edge with and without an entry, and the dot before that one. -/
theorem witness_FrameTiming :
    (let s := atDot 340 261 0x80
     s.ppu.dot ≤ 340 ∧ s.ppu.scanline ≤ 261 ∧ 1 ≤ 341 * 262 ∧ 341 * 262 ≤ dotsDone s + 1 ∧
       s.ppu.ctrl.getLsbD 7 = true ∧ s.cpu.halt = none ∧ (driveDots 1 s).cpu.pending = 7) ∧
      (driveDots 1 (atDot 340 261 0x00)).cpu.pending = 0 ∧
      dotsDone (atDot 339 261 0x80) + 1 < 341 * 262 := by decide

/-- A frame's last dot, the signal down and up. -/
theorem witness_RenderFrameCompletes :
    (let s := atDot 340 261 0x00
     s.ppu.dot ≤ 340 ∧ s.ppu.scanline ≤ 261 ∧ s.ppu.frameReady = false ∧
       nextHas (fun t => t.ppu.frame == 1 && t.ppu.dot == 2) (renderFrame s) = true) ∧
      (let m := atDot 0 0 0x00
       nextHas (fun t => !t.ppu.frameReady) (renderFrame { m with ppu := { m.ppu with frameReady := true } }) =
         true) := by
  decide

theorem witness_EveryStepKeepsTheInvariant : Invariant State.reset ∧ ∃ t, step State.reset = .next t :=
  ⟨⟨by decide, by decide, by decide, by decide, by decide, by decide, by decide, by decide, by decide,
    by decide, (fun d h => by cases h), by decide⟩, nextHas_next (f := fun t => t.cpu.s == 0xFC) (by decide)⟩

end Sys2Proof.Tests
end

section
/-! SUPPORT. Every part of a system cycle keeps the invariant: the instruction, the fetch, the processor's and
the DMA Controller's driven cycle, the dot. The arrays and counters are `Canonical`'s; what is added here is the
processor: the bits of `P` that are always 1, and the halt. -/

namespace Sys2Proof.Machine

/-! ### The bits of `P` that are always present -/

/-- No flag is bit 4 or 5, so writing one keeps those bits. -/
@[simp] theorem putFlag_present (f : Flag) (b : Bool) (p : Byte) : putBit f.bit b p &&& 0x30#8 = p &&& 0x30#8 := by
  cases f <;> apply byte_ext <;>
    simp only [BitVec.getLsbD_and, getLsbD_putBit, Flag.bit, Nat.reduceLT] <;> simp

@[simp] theorem setNZ_present (v : Byte) (c : Cpu) : (c.setNZ v).p &&& 0x30#8 = c.p &&& 0x30#8 :=
  (putFlag_present .N _ _).trans (putFlag_present .Z _ _)

theorem or_present (v : Byte) : (v ||| 0x30#8) &&& 0x30#8 = 0x30#8 := by
  refine (and_0x30 _).2 ?_
  simp

theorem readOp_present {m : Mnemonic} {f : Byte → Cpu → Cpu} (h : readOp m = some f) (v : Byte) (c : Cpu) :
    (f v c).p &&& 0x30#8 = c.p &&& 0x30#8 := by
  cases m <;> cases h <;>
    simp [lda, ldx, ldy, adc, sbc, andA, oraA, eorA, cmpA, cmpX, cmpY, bitTest, Cpu.addInto, Cpu.compare]

theorem modifyOp_present {m : Mnemonic} {f : Byte → Cpu → Modified} (h : modifyOp m = some f) (v : Byte) (c : Cpu) :
    (f v c).cpu.p &&& 0x30#8 = c.p &&& 0x30#8 := by
  cases m <;> cases h <;> simp [inc, dec, asl, lsr, rol, ror, shifted]

/-! ### The processor after the stack operations and the pointer reads -/

@[simp] theorem push_cpu (v : Byte) (s : State) : (push v s).cpu = { s.cpu with s := s.cpu.s - 1 } := by
  rw [push_eq]

@[simp] theorem pop_cpu (s : State) : (pop s).state.cpu = { s.cpu with s := s.cpu.s + 1 } := by rw [pop_eq]

@[simp] theorem pushWord_cpu (a : Addr) (s : State) :
    (pushWord a s).cpu = { s.cpu with s := s.cpu.s - 1 - 1 } := by
  rw [pushWord_eq]

@[simp] theorem popWord_cpu (s : State) : (popWord s).state.cpu = { s.cpu with s := s.cpu.s + 1 + 1 } := by
  rw [popWord_eq]

@[simp] theorem indirect_cpu (ptr : Addr) (s : State) : (indirect ptr s).state.cpu = s.cpu := by simp [indirect]

/-! ### The processor after an instruction -/

/-- What an instruction keeps of the processor's part of the invariant: bits 4 and 5 of `P` (10_state.md R35)
and the halt state, which `UnmappedOpcode` alone sets (60_exceptions.md R240). -/
structure Cpu.Kept (c d : Cpu) : Prop where
  present : c.p &&& 0x30 = 0x30 → d.p &&& 0x30 = 0x30
  halt : d.halt = c.halt

theorem Cpu.Kept.of_eq {c d : Cpu} (hp : d.p &&& 0x30#8 = c.p &&& 0x30#8) (hh : d.halt = c.halt) : c.Kept d :=
  ⟨hp.trans, hh⟩

/-- The instructions outside the three access classes: branches, jumps, the stack, flags, transfers. -/
theorem exec_kept_of_unclassed {i : Instr} {s t : State} (hr : readOp i.mnemonic = none)
    (hst : storeOp i.mnemonic = none) (hm : modifyOp i.mnemonic = none) (he : exec i s = .next t) :
    s.cpu.Kept t.cpu := by
  cases i <;> cases hr <;> cases hst <;> cases hm
  case bpl | bmi | bvc | bvs | bcc | bcs | bne | beq =>
    obtain ⟨pc, pending, rfl⟩ := branch_changes he
    exact .of_eq rfl rfl
  all_goals cases he
  case brk =>
    rw [enterHandler_eq _ brkVector true (by decide) (by decide)]
    exact .of_eq (putFlag_present .I true s.cpu.p) rfl
  case rti =>
    rw [leaveHandler_eq]
    exact ⟨fun _ => or_present _, rfl⟩
  case plp => exact ⟨fun _ => by simp [or_present], by simp⟩
  all_goals exact .of_eq (by simp) (by simp)

/-- Every instruction, by access class. -/
theorem exec_kept {i : Instr} {s t : State} (he : exec i s = .next t) : s.cpu.Kept t.cpu := by
  rcases hr : readOp i.mnemonic with _ | f
  · rcases hst : storeOp i.mnemonic with _ | reg
    · rcases hm : modifyOp i.mnemonic with _ | f
      · exact exec_kept_of_unclassed hr hst hm he
      · rcases exec_modify i f hm s with ⟨-, e⟩ | ⟨m, -, e⟩ <;> rw [e] at he <;> cases he
        all_goals exact .of_eq (by simp [modifyOp_present hm]) (by simp [modifyOp_registers hm])
    · obtain ⟨m, -, e⟩ := exec_store i reg hst s
      rw [e] at he
      cases he
      exact .of_eq rfl rfl
  · obtain ⟨r, -, -, -, e⟩ := exec_read i f hr s
    rw [e] at he
    cases he
    obtain ⟨-, -, -, -, -, halt⟩ := readOp_registers hr r.value s.cpu
    exact .of_eq (readOp_present hr _ _) halt

/-! ### The processor's and the DMA Controller's cycle -/

section
variable {s t : State}

theorem Invariant.running (h : Canonical s) (hp : s.cpu.p &&& 0x30 = 0x30) (hh : s.cpu.halt = none) : Invariant s :=
  h.invariant hp fun hs => absurd hh ((halted_iff s).1 hs)

theorem Canonical.ofFetch (h : Canonical s) : Canonical (fetch s).state := (h.ofCpuRead _).mapCpu _

theorem Invariant.ofFetch (h : Invariant s) : Invariant (fetch s).state :=
  h.canonical.ofFetch.invariant (by simpa using h.p_always_present) (by simpa [State.halted] using h.halted_idle)

/-- An instruction of a running processor leaves it running, so it may owe cycles. -/
theorem Invariant.ofExec (h : Invariant s) (hh : s.cpu.halt = none) {i : Instr} (he : exec i s = .next t) :
    Invariant t :=
  have k := exec_kept he
  .running (h.canonical.ofExec he) (k.present h.p_always_present) (k.halt.trans hh)

/-- A fetching cycle halts, owing nothing, or runs an instruction on a running processor. -/
theorem Invariant.ofFetchExecute (h : Invariant s) (hh : s.cpu.halt = none) (hp : s.cpu.pending = 0)
    (he : fetchExecute s = .next t) : Invariant t := by
  have h1 := h.ofFetch
  have h2 := h1.ofFetch
  simp only [fetchExecute] at he
  cases hf : decodeOpcode (fetch s).value with
  | none =>
    rw [hf] at he
    cases he
    exact (h1.canonical.mapCpu _).invariant h1.p_always_present fun _ => by simpa using hp
  | some f =>
    rw [hf] at he
    cases f with
    | f1 i => exact h1.ofExec (by simpa using hh) he
    | f2 mk => exact h2.ofExec (by simpa using hh) he
    | f3 mk => exact h2.ofFetch.ofExec (by simpa using hh) he

theorem Invariant.ofCpuCycle (h : Invariant s) (he : cpuCycle s = .next t) : Invariant t := by
  by_cases hh : s.cpu.halt = none
  · by_cases hp : s.cpu.pending = 0
    · exact h.ofFetchExecute hh hp (cpuCycle_fetching hh hp ▸ he)
    · rw [cpuCycle, if_neg (by simp [State.halted, hh]), if_pos (by omega)] at he
      cases he
      exact .running (h.canonical.mapCpu _) h.p_always_present hh
  · rw [cpuCycle_halted hh] at he
    cases he
    exact h

theorem Invariant.ofDmaCycle (h : Invariant s) {d : DmaSession} (hd : s.dma = some d) : Invariant (dmaCycle d s) :=
  (h.canonical.ofDmaCycle (h.dma_legal d hd)).invariant (by rw [dmaCycle_cpu]; exact h.p_always_present)
    (by rw [State.halted, dmaCycle_cpu]; exact h.halted_idle)

theorem Invariant.ofDriveBus (h : Invariant s) (he : driveBus s = .next t) : Invariant t := by
  cases hd : s.dma with
  | none => exact h.ofCpuCycle (driveBus_processor hd ▸ he)
  | some d =>
    rw [driveBus_session hd] at he
    cases he
    exact h.ofDmaCycle hd

/-! ### The Picture Unit's dots -/

theorem Invariant.ofNmi (h : Invariant s) : Invariant (nmi s) := by
  by_cases hh : s.cpu.halt = none
  · obtain ⟨-, -, -, -, halt⟩ := nmi_keeps s
    refine .running h.canonical.ofNmi ?_ (halt.trans hh)
    rw [nmi_running hh]
    exact h.p_always_present
  · rwa [nmi_halted hh]

theorem Invariant.ofProducePixel (h : Invariant s) {x y : Nat} (hx : x < 256) (hy : y < 240) :
    Invariant (producePixel x y s) := by
  have hc := h.canonical.ofProducePixel hx hy
  have e : (producePixel x y s).cpu = s.cpu := by rw [producePixel_changes]
  exact hc.invariant (by rw [e]; exact h.p_always_present) (by rw [State.halted, e]; exact h.halted_idle)

/-- A change of the counters, the signal and the vertical-blank status bit alone. -/
theorem Invariant.ofMapPpu (h : Invariant s) {f : Ppu → Ppu} (hoam : (f s.ppu).oam = s.ppu.oam)
    (hfb : (f s.ppu).fb = s.ppu.fb) (hstatus : (f s.ppu).status &&& 0x7F = 0) (hdot : (f s.ppu).dot ≤ 340)
    (hscan : (f s.ppu).scanline ≤ 261) : Invariant (s.mapPpu f) :=
  { h with
    oam_wf := hoam ▸ h.oam_wf, fb_sorted := hfb ▸ h.fb_sorted, fb_inside := hfb ▸ h.fb_inside
    status_low_zero := hstatus, dot_range := hdot, scanline_range := hscan }

/-- Setting the vertical-blank status bit leaves the others clear. -/
theorem status_low_putVblank (p : Byte) (h : p &&& 0x7F = 0) : (p ||| 0x80) &&& 0x7F = 0 := by
  rw [← h]
  apply byte_ext <;> simp

theorem Invariant.ofFrameWrap (h : Invariant s) : Invariant (frameWrap s) := by
  have hq : Invariant (s.mapPpu fun p =>
      { p with status := p.status ||| 0x80, frame := p.frame + 1, frameReady := true }) :=
    h.ofMapPpu rfl rfl (status_low_putVblank _ h.status_low_zero) h.dot_range h.scanline_range
  rw [frameWrap_eq]
  split
  · exact hq.ofNmi
  · exact hq

theorem Invariant.ofAdvanceDot (h : Invariant s) : Invariant (advanceDot s) := by
  rw [advanceDot_eq h.dot_range h.scanline_range]
  split
  · exact h.ofMapPpu rfl rfl h.status_low_zero (show s.ppu.dot + 1 ≤ 340 by omega) h.scanline_range
  · split
    · exact h.ofMapPpu rfl rfl h.status_low_zero (Nat.zero_le _) (show s.ppu.scanline + 1 ≤ 261 by omega)
    · exact (h.ofMapPpu rfl rfl h.status_low_zero (Nat.zero_le _) (Nat.zero_le _)).ofFrameWrap

theorem Invariant.ofPpuDot (h : Invariant s) : Invariant (ppuDot s) := by
  rw [ppuDot]
  split
  · rename_i hr
    obtain ⟨-, hy, hx⟩ := (rendering_iff _).1 hr
    exact (h.ofProducePixel hx hy).ofAdvanceDot
  · exact h.ofAdvanceDot

theorem Invariant.ofThreeDots (h : Invariant s) : Invariant (threeDots s) := h.ofPpuDot.ofPpuDot.ofPpuDot

/-- The step's two parts: the bus cycle, then three dots (60_exceptions.md R280). -/
theorem step_cases (he : step s = .next t) : ∃ u, driveBus s = .next u ∧ t = threeDots u := by
  rw [step, sysCycle] at he
  cases hd : driveBus s with
  | next u =>
    rw [hd] at he
    cases he
    exact ⟨u, rfl, rfl⟩
  | fault r => rw [hd] at he; cases he
  | refused r => rw [hd] at he; cases he

end

/-- Settles O60: the bus cycle keeps the invariant, then each of the three dots does. -/
theorem everyStepKeepsTheInvariant : Obligations.EveryStepKeepsTheInvariant := by
  intro s t h he
  obtain ⟨u, hu, rfl⟩ := step_cases he
  exact (h.ofDriveBus hu).ofThreeDots

/-- Settles O59, field by field: the arrays are empty and the counters zero. -/
theorem invariantHoldsAtReset : Obligations.InvariantHoldsAtReset :=
  { cfg_wf := by decide
    ram_wf := rfl
    vram_wf := rfl
    oam_wf := rfl
    fb_sorted := rfl
    fb_inside := fun _ hc => by cases hc
    p_always_present := rfl
    status_low_zero := rfl
    dot_range := Nat.zero_le _
    scanline_range := Nat.zero_le _
    dma_legal := fun _ hd => by cases hd
    halted_idle := fun _ => rfl }

end Sys2Proof.Machine
end

section
/-! SUPPORT. The stack instructions in the terms of their statements: stack bytes and return addresses as numbers. -/

namespace Sys2Proof.Machine

/-! ### Return addresses -/

theorem word_sub_one (a : Addr) : a - 1 = BitVec.ofNat 16 (a.toNat + 65535) := by
  apply BitVec.eq_of_toNat_eq
  rw [BitVec.toNat_sub, BitVec.toNat_ofNat, Nat.add_comm]
  rfl

theorem hiByte_ofNat (n : Nat) : hiByte (BitVec.ofNat 16 n) = BitVec.ofNat 8 (n / 256) := by
  rw [hiByte_eq]
  apply BitVec.eq_of_toNat_eq
  simp only [BitVec.toNat_ofNat]
  omega

theorem loByte_ofNat (n : Nat) : loByte (BitVec.ofNat 16 n) = BitVec.ofNat 8 n := by
  rw [loByte_eq]
  apply BitVec.eq_of_toNat_eq
  simp only [BitVec.toNat_ofNat]
  omega

theorem wordOf_add_one (lo hi : Byte) : wordOf lo hi + 1 = BitVec.ofNat 16 (256 * hi.toNat + lo.toNat + 1) := by
  rw [wordOf_eq]
  exact BitVec.ofNat_add_ofNat ..

/-- Settles O29: the return address is `PC - 1`, pushed as a word. -/
theorem jsrPushesTheReturnAddress : Obligations.JsrPushesTheReturnAddress := by
  intro a s
  show finish 0x20 0 ((pushWord (s.cpu.pc - 1) s).mapCpu (Cpu.setPC a)) = _
  rw [pushWord_eq, word_sub_one, hiByte_ofNat, loByte_ofNat, byte_sub_one s.cpu.s, stackAddr_eq]
  rfl

/-- Settles O30: a word is popped and 1 is added to it. -/
theorem rtsPopsTheReturnAddress : Obligations.RtsPopsTheReturnAddress := by
  intro s
  show finish 0x60 0 ((popWord s).state.mapCpu (Cpu.setPC ((popWord s).value + 1))) = _
  rw [popWord_eq, byte_add_one s.cpu.s, byte_ofNat_add s.cpu.s 1, stackAddr_eq]
  dsimp only
  rw [wordOf_add_one]
  rfl

/-- Settles O33: each is one push or one pop, then the register's own write. -/
theorem pushesAndPulls : Obligations.PushesAndPulls := by
  intro s
  refine ⟨?_, ?_, ?_, ?_⟩
  · show finish 0x48 0 (push s.cpu.a s) = _
    rw [push_eq, stackAddr_eq]
    rfl
  · show finish 0x08 0 (push s.cpu.status s) = _
    rw [push_eq, stackAddr_eq]
    rfl
  · show finish 0x68 0 ((pop s).state.mapCpu (Cpu.writeA (pop s).value)) = _
    rw [pop_eq, byte_add_one s.cpu.s, stackAddr_eq, State.mapCpu, writeA_eq]
    rfl
  · show finish 0x28 0 ((pop s).state.mapCpu (Cpu.setStatus (pop s).value)) = _
    rw [pop_eq, byte_add_one s.cpu.s, stackAddr_eq]
    rfl

/-! ### What the pushing forms leave alone -/

/-- The instructions that push onto the stack page. -/
theorem pushes_cases {i : Instr} (h : pushes i = true) : i = .pha ∨ i = .php ∨ i = .brk ∨ ∃ a, i = .jsr a := by
  cases i <;> simp [pushes, Instr.mnemonic, describe] at h ⊢

/-- `S` lowered by `j` pushes, with the wrap in the page (D15). -/
theorem byte_sub_ofNat (b : Byte) {j : Nat} (hj : j ≤ 256) :
    b - BitVec.ofNat 8 j = BitVec.ofNat 8 (b.toNat + (256 - j)) := by
  apply BitVec.eq_of_toNat_eq
  simp only [BitVec.toNat_sub, BitVec.toNat_ofNat]
  omega

/-- The bytes outside the `n` stack bytes from `S` down, wrapping in the page (D15), are the same. -/
def SameOutsideStack (n : Nat) (s : State) (ram : Memory) : Prop :=
  ∀ k, (∀ j, j < n → k ≠ 256 + (s.cpu.s - BitVec.ofNat 8 j).toNat) → Memory.read ram k = Memory.read s.ram k

theorem SameOutsideStack.zero (s : State) : SameOutsideStack 0 s s.ram := fun _ _ => rfl

/-- The next push writes the next stack byte down. -/
theorem SameOutsideStack.write {n : Nat} {s : State} {ram : Memory} (h : SameOutsideStack n s ram) {p : Byte}
    (hp : p = s.cpu.s - BitVec.ofNat 8 n) (v : Byte) :
    SameOutsideStack (n + 1) s (Memory.write ram (256 + p.toNat) v) := fun k hk => by
  rw [Memory.read_write_other _ _ (hp ▸ hk n (Nat.lt_succ_self n))]
  exact h k fun j hj => hk j (Nat.lt_succ_of_lt hj)

theorem SameOutsideStack.one (s : State) (v : Byte) :
    SameOutsideStack 1 s (Memory.write s.ram (256 + s.cpu.s.toNat) v) :=
  (zero s).write (BitVec.sub_zero _).symm v

theorem SameOutsideStack.two (s : State) (v w : Byte) :
    SameOutsideStack 2 s
      (Memory.write (Memory.write s.ram (256 + s.cpu.s.toNat) v)
        (256 + (BitVec.ofNat 8 (s.cpu.s.toNat + 255)).toNat) w) :=
  (one s v).write (byte_sub_ofNat s.cpu.s (j := 1) (by decide)).symm w

/-- Settles O43: each push writes the next of the stack bytes, and BRK's vector comes from program ROM. -/
theorem pushingFormsChangeOnlyTheStackBytes : Obligations.PushingFormsChangeOnlyTheStackBytes := by
  intro i s t hi he
  obtain ⟨pha, php, -, -⟩ := pushesAndPulls s
  rcases pushes_cases hi with rfl | rfl | rfl | ⟨a, rfl⟩
  · cases pha.symm.trans he
    exact ⟨SameOutsideStack.one s _, rfl⟩
  · cases php.symm.trans he
    exact ⟨SameOutsideStack.one s _, rfl⟩
  · cases he
    rw [enterHandler_eq _ brkVector true (by decide) (by decide)]
    exact ⟨(SameOutsideStack.two s _ _).write (byte_sub_ofNat s.cpu.s (j := 2) (by decide)).symm _, rfl⟩
  · cases (jsrPushesTheReturnAddress a s).symm.trans he
    exact ⟨SameOutsideStack.two s _ _, rfl⟩

end Sys2Proof.Machine
end

section
/-! SUPPORT. Which parts of the machine's state an instruction or a step may change: the registers, the flags, the
parameters; and the main-bus map for reads, the return from a handler. -/

namespace Sys2Proof.Machine

/-! ### The main-bus map -/

/-- Settles O7: the bits 15 and 13 of the address, and whether its low 13 bits are zero, decide who answers. -/
theorem mainBusReadMap : Obligations.MainBusReadMap := by
  intro a s
  have hlt := a.isLt
  refine ⟨fun h => ?_, fun h => ?_, fun h => ?_, fun h => ?_⟩
  · by_cases h0 : a.toNat < 0x2000
    · exact busRead_of_ram h0 s
    · have h15 : ¬ a.getLsbD 15 = true := by rw [bit15_iff]; omega
      have h13 : ¬ a.getLsbD 13 = true := by rw [bit13_iff]; omega
      rw [busRead_state, if_neg h15, if_neg h13, if_pos (Or.inl (by omega))]
  · have h15 : ¬ a.getLsbD 15 = true := by rw [bit15_iff]; omega
    have h13 : a.getLsbD 13 = true := by rw [bit13_iff]; omega
    rw [busRead_state, if_neg h15, if_pos h13]
  · exact busRead_of_rom ((bit15_iff a).2 (by omega)) s
  · subst h
    rw [busRead_state, if_neg (by decide), if_neg (by decide), if_neg (by decide)]

/-! ### The return from a handler -/

/-- Settles O36: three stack bytes up from `S`, the last two of them a word. -/
theorem rtiRestoresStatusAndPC : Obligations.RtiRestoresStatusAndPC := by
  intro s
  show finish 0x40 0 (leaveHandler s) = _
  rw [leaveHandler_eq, byte_add_one s.cpu.s, byte_ofNat_add s.cpu.s 1, byte_ofNat_add s.cpu.s 2, stackAddr_eq]
  dsimp only
  rw [wordOf_eq]
  rfl

/-! ### The classes of instructions -/

/-- What an instruction answers, by access class (30_encoding.md R134). -/
inductive ExecCase (i : Instr) (s : State) : State → Prop
  | read {f : Byte → Cpu → Cpu} {r : Fetched} (op : readOp i.mnemonic = some f) (source : sourceOf i s = some r)
      (cfg : r.state.cfg = s.cfg) :
      ExecCase i s { r.state with cpu := { f r.value s.cpu with pending := owed i r.crossed.toNat s } }
  | store {reg : Cpu → Byte} {m : MemMode} (op : storeOp i.mnemonic = some reg) (operand : i.operand = .mem m) :
      ExecCase i s { cpuWrite (locate m s).ea (reg s.cpu) (locate m s).state with
        cpu := { s.cpu with pending := owed i 0 s } }
  | accumulator {f : Byte → Cpu → Modified} (op : modifyOp i.mnemonic = some f) (operand : i.operand = .acc) :
      ExecCase i s { s with
        cpu := { Cpu.writeA (f s.cpu.a s.cpu).result (f s.cpu.a s.cpu).cpu with pending := owed i 0 s } }
  | modify {f : Byte → Cpu → Modified} {m : MemMode} {r : Read} (op : modifyOp i.mnemonic = some f)
      (operand : i.operand = .mem m) (read : r = cpuRead (locate m s).ea (locate m s).state) :
      ExecCase i s { cpuWrite (locate m s).ea (f r.value s.cpu).result r.state with
        cpu := { (f r.value s.cpu).cpu.setNZ (f r.value s.cpu).result with pending := owed i 0 s } }
  | unclassed {t : State} (reads : readOp i.mnemonic = none) (stores : storeOp i.mnemonic = none)
      (modifies : modifyOp i.mnemonic = none) (answer : exec i s = .next t) : ExecCase i s t

/-- Every instruction belongs to one of the classes. -/
theorem exec_cases {i : Instr} {s t : State} (he : exec i s = .next t) : ExecCase i s t := by
  rcases hr : readOp i.mnemonic with _ | f
  · rcases hst : storeOp i.mnemonic with _ | reg
    · rcases hm : modifyOp i.mnemonic with _ | f
      · exact .unclassed hr hst hm he
      · rcases exec_modify i f hm s with ⟨hacc, e⟩ | ⟨m, hmem, e⟩ <;> cases e.symm.trans he
        · exact .accumulator hm hacc
        · exact .modify hm hmem rfl
    · obtain ⟨m, hmem, e⟩ := exec_store i reg hst s
      cases e.symm.trans he
      exact .store hst hmem
  · obtain ⟨r, hs, -, hcfg, e⟩ := exec_read i f hr s
    cases e.symm.trans he
    exact .read hr hs hcfg

/-! ### The parameters -/

@[simp] theorem push_cfg (v : Byte) (s : State) : (push v s).cfg = s.cfg := by rw [push_eq]

@[simp] theorem pop_cfg (s : State) : (pop s).state.cfg = s.cfg := by rw [pop_eq]

@[simp] theorem pushWord_cfg (a : Addr) (s : State) : (pushWord a s).cfg = s.cfg := by rw [pushWord_eq]

@[simp] theorem popWord_cfg (s : State) : (popWord s).state.cfg = s.cfg := by rw [popWord_eq]

@[simp] theorem indirect_cfg (ptr : Addr) (s : State) : (indirect ptr s).state.cfg = s.cfg := by simp [indirect]

@[simp] theorem enterHandler_cfg (ret vector : Addr) (setI : Bool) (s : State) :
    (enterHandler ret setI vector s).cfg = s.cfg := by
  rw [enterHandler]
  split <;> simp [read16]

@[simp] theorem leaveHandler_cfg (s : State) : (leaveHandler s).cfg = s.cfg := by rw [leaveHandler_eq]

theorem exec_cfg_of_unclassed {i : Instr} {s t : State} (hr : readOp i.mnemonic = none)
    (hst : storeOp i.mnemonic = none) (hm : modifyOp i.mnemonic = none) (he : exec i s = .next t) :
    t.cfg = s.cfg := by
  cases i <;> cases hr <;> cases hst <;> cases hm
  case bpl | bmi | bvc | bvs | bcc | bcs | bne | beq =>
    obtain ⟨pc, pending, rfl⟩ := branch_changes he
    rfl
  all_goals
    cases he
    simp

/-- No instruction changes the parameters (10_state.md R64). -/
theorem exec_cfg {i : Instr} {s t : State} (he : exec i s = .next t) : t.cfg = s.cfg := by
  cases exec_cases he with
  | read _ _ cfg => exact cfg
  | store => simp
  | accumulator => rfl
  | modify _ _ read => simp [read]
  | unclassed reads stores modifies answer => exact exec_cfg_of_unclassed reads stores modifies answer

theorem fetchExecute_completes (s : State) : ∃ t, fetchExecute s = .next t ∧ t.cfg = s.cfg := by
  have ofExec (i : Instr) {u : State} (hu : u.cfg = s.cfg) : ∃ t, exec i u = .next t ∧ t.cfg = s.cfg := by
    obtain ⟨t, he⟩ := exec_next i u
    exact ⟨t, he, (exec_cfg he).trans hu⟩
  simp only [fetchExecute]
  cases decodeOpcode (fetch s).value with
  | none => exact ⟨_, rfl, by simp [raiseUnmapped]⟩
  | some form =>
    cases form with
    | f1 i => exact ofExec i (by simp)
    | f2 mk => exact ofExec _ (by simp)
    | f3 mk => exact ofExec _ (by simp)

theorem cpuCycle_completes (s : State) : ∃ t, cpuCycle s = .next t ∧ t.cfg = s.cfg := by
  rw [cpuCycle]
  split
  · exact ⟨s, rfl, rfl⟩
  · split
    · exact ⟨_, rfl, rfl⟩
    · exact fetchExecute_completes s

theorem driveBus_completes (s : State) : ∃ t, driveBus s = .next t ∧ t.cfg = s.cfg := by
  cases hd : s.dma with
  | none => rw [driveBus_processor hd]; exact cpuCycle_completes s
  | some d => exact ⟨_, driveBus_session hd, dmaCycle_cfg d s⟩

/-- Settles O48: the bus cycle answers a next state, and the three dots are total. -/
theorem everyStepCompletes : Obligations.EveryStepCompletes := by
  intro s
  obtain ⟨t, ht, hcfg⟩ := driveBus_completes s
  obtain ⟨dots, -, -⟩ := threeDots_keeps t
  exact ⟨threeDots t, by rw [step, sysCycle, ht, onNext], dots.trans hcfg⟩

/-! ### The registers -/

/-- The registers that an instruction not listed as their writer leaves as they were (10_state.md R30 to R32). -/
structure RegisterFrame (i : Instr) (c d : Cpu) : Prop where
  a : i.mnemonic ∉ [.lda, .txa, .tya, .pla, .adc, .sbc, .and, .ora, .eor] → ¬ (i.operand = .acc) → d.a = c.a
  x : i.mnemonic ∉ [.ldx, .tax, .tsx, .inx, .dex] → d.x = c.x
  y : i.mnemonic ∉ [.ldy, .tay, .iny, .dey] → d.y = c.y
  s : i.mnemonic ∉ [.pha, .php, .pla, .plp, .jsr, .rts, .brk, .rti, .txs] → d.s = c.s
  pc : i.mnemonic ∉ [.jmp, .jsr, .rts, .brk, .rti, .bcc, .bcs, .beq, .bne, .bmi, .bpl, .bvc, .bvs] → d.pc = c.pc

/-- The instructions outside the three access classes: a branch writes `PC` only, the others are read off
their closed forms. -/
theorem exec_registers_of_unclassed {i : Instr} {s t : State} (hr : readOp i.mnemonic = none)
    (hst : storeOp i.mnemonic = none) (hm : modifyOp i.mnemonic = none) (he : exec i s = .next t) :
    RegisterFrame i s.cpu t.cpu := by
  cases i <;> cases hr <;> cases hst <;> cases hm
  case bpl | bmi | bvc | bvs | bcc | bcs | bne | beq =>
    obtain ⟨pc, pending, rfl⟩ := branch_changes he
    exact ⟨fun _ _ => rfl, fun _ => rfl, fun _ => rfl, fun _ => rfl, by simp [Instr.mnemonic, describe]⟩
  all_goals cases he
  case brk =>
    rw [enterHandler_eq _ brkVector true (by decide) (by decide)]
    constructor <;> simp [Instr.mnemonic, describe, entered]
  case rti =>
    rw [leaveHandler_eq]
    constructor <;> simp [Instr.mnemonic, describe]
  all_goals constructor <;> simp [Instr.mnemonic, describe]

theorem exec_registers {i : Instr} {s t : State} (he : exec i s = .next t) : RegisterFrame i s.cpu t.cpu := by
  cases exec_cases he with
  | @read f r op =>
    obtain ⟨a, x, y, hs, pc, -⟩ := readOp_registers op r.value s.cpu
    have hsub : [Mnemonic.lda, .adc, .sbc, .and, .ora, .eor] ⊆
        [.lda, .txa, .tya, .pla, .adc, .sbc, .and, .ora, .eor] := by decide
    exact ⟨fun h _ => a fun hm => h (hsub hm), fun h => x (List.ne_of_not_mem_cons h),
      fun h => y (List.ne_of_not_mem_cons h), fun _ => hs, fun _ => pc⟩
  | store => exact ⟨fun _ _ => rfl, fun _ => rfl, fun _ => rfl, fun _ => rfl, fun _ => rfl⟩
  | accumulator op operand =>
    obtain ⟨-, x, y, hs, pc, -⟩ := modifyOp_registers op s.cpu.a s.cpu
    exact ⟨fun _ h => absurd operand h, fun _ => x, fun _ => y, fun _ => hs, fun _ => pc⟩
  | @modify f _ r op =>
    obtain ⟨a, x, y, hs, pc, -⟩ := modifyOp_registers op r.value s.cpu
    exact ⟨fun _ _ => a, fun _ => x, fun _ => y, fun _ => hs, fun _ => pc⟩
  | unclassed reads stores modifies answer => exact exec_registers_of_unclassed reads stores modifies answer

/-- Settles O39, by access class; the halt record is `UnmappedOpcode`'s alone. -/
theorem registersChangeOnlyAsListed : Obligations.RegistersChangeOnlyAsListed := by
  intro i s t he
  obtain ⟨a, x, y, hs, pc⟩ := exec_registers he
  exact ⟨a, x, y, hs, pc, (exec_kept he).halt, exec_cfg he⟩

/-! ### The flags -/

/-- The mnemonics that write bit `k` of `P` and not the whole word (10_state.md R34, R35). -/
def flagWriters (k : Nat) : List Mnemonic :=
  match k with
  | 0 => [.adc, .sbc, .cmp, .cpx, .cpy, .asl, .lsr, .rol, .ror, .clc, .sec]
  | 1 | 7 => [.lda, .ldx, .ldy, .tax, .tay, .txa, .tya, .tsx, .pla, .adc, .sbc, .and, .ora, .eor,
      .cmp, .cpx, .cpy, .bit, .inc, .dec, .inx, .iny, .dex, .dey, .asl, .lsr, .rol, .ror]
  | 2 => [.brk, .sei, .cli]
  | 3 => [.sed, .cld]
  | 6 => [.adc, .sbc, .bit, .clv]
  | _ => []

/-- From `p` to `q` only the bits that `m` writes have changed. -/
def FlagFrame (m : Mnemonic) (p q : Byte) : Prop :=
  ∀ k, k < 8 → m ∉ flagWriters k → q.getLsbD k = p.getLsbD k

namespace FlagFrame

variable {m : Mnemonic} {p : Byte} {c : Cpu}

theorem refl (m : Mnemonic) (p : Byte) : FlagFrame m p p := fun _ _ _ => rfl

theorem putFlag (h : FlagFrame m p c.p) (f : Flag) (hf : m ∈ flagWriters f.bit) (b : Bool) :
    FlagFrame m p (c.putFlag f b).p := fun k hk hm => by
  have hkf : k ≠ f.bit := fun e => hm (e ▸ hf)
  rw [Cpu.putFlag_p, getLsbD_putBit _ b c.p k hk, if_neg hkf]
  exact h k hk hm

/-- `SetNZ` writes `Z` and `N`, whose writers are the same. -/
theorem setNZ (h : FlagFrame m p c.p) (hm : m ∈ flagWriters 1) (v : Byte) : FlagFrame m p (c.setNZ v).p :=
  (h.putFlag .Z hm _).putFlag .N hm _

theorem writeA (h : FlagFrame m p c.p) (hm : m ∈ flagWriters 1) (v : Byte) : FlagFrame m p (c.writeA v).p := by
  rw [Cpu.writeA_p]
  exact h.setNZ hm v

theorem writeX (h : FlagFrame m p c.p) (hm : m ∈ flagWriters 1) (v : Byte) : FlagFrame m p (c.writeX v).p := by
  rw [Cpu.writeX_p]
  exact h.setNZ hm v

theorem writeY (h : FlagFrame m p c.p) (hm : m ∈ flagWriters 1) (v : Byte) : FlagFrame m p (c.writeY v).p := by
  rw [Cpu.writeY_p]
  exact h.setNZ hm v

theorem ofReadOp {f : Byte → Cpu → Cpu} (h : readOp m = some f) (v : Byte) (c : Cpu) :
    FlagFrame m c.p (f v c).p := by
  have r := refl m c.p
  cases m <;> cases h
  case lda | and | ora | eor => exact r.writeA (by decide) _
  case ldx => exact r.writeX (by decide) _
  case ldy => exact r.writeY (by decide) _
  case adc | sbc => exact ((r.putFlag .C (by decide) _).putFlag .V (by decide) _).writeA (by decide) _
  case cmp | cpx | cpy => exact (r.putFlag .C (by decide) _).setNZ (by decide) _
  case bit => exact ((r.putFlag .Z (by decide) _).putFlag .N (by decide) _).putFlag .V (by decide) _

/-- A read-modify-write form: the carry of a shift or rotate, then `SetNZ` of the result. -/
theorem ofModifyOp {f : Byte → Cpu → Modified} (h : modifyOp m = some f) (v w : Byte) (c : Cpu) :
    FlagFrame m c.p ((f v c).cpu.setNZ w).p := by
  have r := refl m c.p
  cases m <;> cases h
  case inc | dec => exact r.setNZ (by decide) _
  case asl | lsr | rol | ror => exact (r.putFlag .C (by decide) _).setNZ (by decide) _

/-- The instructions outside the three access classes: transfers, counting in a register, PLA, the flag
instructions, BRK, which sets `I`; the others write no flag. -/
theorem ofUnclassed {i : Instr} {s t : State} (hr : readOp i.mnemonic = none) (hst : storeOp i.mnemonic = none)
    (hm : modifyOp i.mnemonic = none) (hp : i.mnemonic ∉ [.plp, .rti]) (he : exec i s = .next t) :
    FlagFrame i.mnemonic s.cpu.p t.cpu.p := by
  have r := refl i.mnemonic s.cpu.p
  cases i <;> cases hr <;> cases hst <;> cases hm
  case bpl | bmi | bvc | bvs | bcc | bcs | bne | beq =>
    obtain ⟨pc, pending, rfl⟩ := branch_changes he
    exact r
  case plp | rti => exact absurd (by decide) hp
  all_goals cases he
  case brk =>
    rw [enterHandler_eq _ brkVector true (by decide) (by decide)]
    exact r.putFlag .I (by decide) true
  case txa | tya => exact r.writeA (by decide) _
  case tax | tsx | inx | dex => exact r.writeX (by decide) _
  case tay | iny | dey => exact r.writeY (by decide) _
  case pla => exact writeA (by simpa using r) (by decide) _
  case clc | sec => exact r.putFlag .C (by decide) _
  case cli | sei => exact r.putFlag .I (by decide) _
  case cld | sed => exact r.putFlag .D (by decide) _
  case clv => exact r.putFlag .V (by decide) _
  all_goals simpa using r

/-- Every instruction but the two that pop `P` writes only the flags it is listed for. -/
theorem ofExec {i : Instr} {s t : State} (he : exec i s = .next t) (hp : i.mnemonic ∉ [.plp, .rti]) :
    FlagFrame i.mnemonic s.cpu.p t.cpu.p := by
  cases exec_cases he with
  | read op => exact ofReadOp op _ _
  | store => exact refl _ _
  | accumulator op => exact ofModifyOp op _ _ _
  | modify op => exact ofModifyOp op _ _ _
  | unclassed reads stores modifies answer => exact ofUnclassed reads stores modifies hp answer

end FlagFrame

/-- Settles O40, bit by bit; no mnemonic is listed for bits 4 and 5. -/
theorem flagsChangeOnlyAsListed : Obligations.FlagsChangeOnlyAsListed := by
  intro i s t he hp
  have h := FlagFrame.ofExec he hp
  exact ⟨h 0 (by decide), fun hm => ⟨h 1 (by decide) hm, h 7 (by decide) hm⟩, h 2 (by decide), h 3 (by decide),
    h 6 (by decide), h 4 (by decide) List.not_mem_nil, h 5 (by decide) List.not_mem_nil⟩

end Sys2Proof.Machine
end

section
/-! SUPPORT. The two buses and the Picture Unit's registers in the terms of their statements: who receives a write, what a
read may change, what each register answers and does. -/

namespace Sys2Proof.Machine

/-! ### The maps -/

/-- Settles O8, by the two policies of `FLOAT`. -/
theorem floatingReadReturnsFloat : Obligations.FloatingReadReturnsFloat :=
  ⟨fun s b h => by rw [floating, h], fun s h => by rw [floating, h]⟩

/-- Settles O9: Working RAM keeps the byte or not, then the register window receives it or not. -/
theorem mainBusWriteMap : Obligations.MainBusWriteMap := by
  intro a v s
  rw [busWrite_eq]
  by_cases h : a.toNat % 0x2000 ≠ 0 ∨ a = 0
  · simp only [if_pos h]
  · simp only [if_neg h]

/-- Settles O10: bit 13 of a picture-bus address decides between the two devices. -/
theorem pictureBusMap : Obligations.PictureBusMap := by
  intro a v s
  have hlt := a.isLt
  refine ⟨fun h => ?_, fun h => ?_⟩
  · have h13 : ¬ a.getLsbD 13 = true := by rw [bit13_iff]; omega
    rw [picRead_eq, picWrite_eq, if_neg h13, if_neg h13]
    exact ⟨rfl, rfl⟩
  · have h13 : a.getLsbD 13 = true := by rw [bit13_iff]; omega
    rw [picRead_eq, picWrite_eq, if_pos h13, if_pos h13]
    exact ⟨rfl, rfl⟩

theorem cpuWrite_of_internal {a : Addr} (h : 0x4000 ≤ a.toNat ∧ a.toNat ≤ 0x401F) (v : Byte) (s : State) :
    cpuWrite a v s = internalWrite a v (busWrite a v s) := by
  rw [cpuWrite]
  exact if_pos ((isInternal_iff a).2 h)

/-- The DMA trigger lies outside the register window, so its bus write reaches Working RAM alone. -/
theorem busWrite_dmaTrigger (v : Byte) (s : State) :
    busWrite 0x4014 v s = { s with mainBus := writeLatch 0x4014 v, ram := Memory.write s.ram 0x014 v } := by
  rw [busWrite_eq, if_neg (by decide), if_pos (by decide)]
  rfl

/-- Settles O11: outside the block nothing is intercepted; inside it, address 0x4014 arms the session and the
others report. -/
theorem processorWritesAreIntercepted : Obligations.ProcessorWritesAreIntercepted := by
  intro a v s
  refine ⟨fun h => ?_, fun h => ?_, fun ⟨h, h', hne⟩ => ?_⟩
  · have hi : ¬ isInternal a = true := by rw [isInternal_iff]; omega
    rw [cpuWrite]
    exact if_neg hi
  · subst h
    rw [cpuWrite_of_internal (by decide), busWrite_dmaTrigger, internalWrite, if_pos rfl, dmaBegin, wordOf_eq]
    rfl
  · rw [cpuWrite_of_internal ⟨h, h'⟩, internalWrite, if_neg hne, reportInternal, busWrite_reports]

/-- Settles O12: both accesses are of the array cell that the low 11 bits select. -/
theorem ramReadAfterWrite : Obligations.RamReadAfterWrite := by
  intro a b v s ha hb
  have hw := busWrite_of_ram (Nat.lt_succ_of_le ha) v s
  have hr := busRead_of_ram (Nat.lt_succ_of_le hb)
  rw [hw, hr, hr]
  refine ⟨fun h => ?_, fun h => ?_⟩
  · rw [h]
    exact Memory.read_write_same ..
  · exact Memory.read_write_other _ _ (Ne.symm h)

/-! ### The registers -/

/-- The number of a register (10_state.md R47). -/
def PpuReg.number : PpuReg → Nat
  | .control => 0
  | .mask => 1
  | .status => 2
  | .oamAddress => 3
  | .oamData => 4
  | .scroll => 5
  | .address => 6
  | .data => 7

theorem PpuReg.number_inj {q r : PpuReg} (h : q.number = r.number) : q = r := by
  cases q <;> cases r <;> cases h <;> rfl

/-- A window address selects the register numbered by its low three bits (20_memory.md R83). -/
theorem ofAddr_number (a : Addr) : (PpuReg.ofAddr a).number = a.toNat % 8 := by
  rcases ofAddr_cases a with h | h | h | h | h | h | h | h <;> rw [h.1, h.2] <;> rfl

theorem ofAddr_eq_iff {a : Addr} {r : PpuReg} : PpuReg.ofAddr a = r ↔ a.toNat % 8 = r.number := by
  rw [← ofAddr_number]
  exact ⟨congrArg _, PpuReg.number_inj⟩

theorem ofAddr_of_number {a : Addr} (r : PpuReg) (h : a.toNat % 8 = r.number) : PpuReg.ofAddr a = r :=
  ofAddr_eq_iff.2 h

/-- A read of register 7, in closed form: the picture-bus read at `v`, then the advance. -/
theorem PpuReg.read_data (s : State) :
    PpuReg.data.read s =
      { value := (picRead s.ppu.v s).value,
        state := { (picRead s.ppu.v s).state with
          ppu := { s.ppu with v := BitVec.ofNat 14 (s.ppu.v.toNat + if s.ppu.ctrl.getLsbD 2 then 32 else 1) } } } := by
  simp only [PpuReg.read, picRead_eq, State.mapPpu, advanceV_eq]

/-- A write of register 7, in closed form: the picture-bus write at `v`, then the advance. -/
theorem PpuReg.write_data (b : Byte) (s : State) :
    PpuReg.data.write b s =
      { picWrite s.ppu.v b s with
        ppu :=
          { s.ppu with
            dataLast := b
            v := BitVec.ofNat 14 (s.ppu.v.toNat + if s.ppu.ctrl.getLsbD 2 then 32 else 1) } } := by
  simp only [PpuReg.write, picWrite_eq, State.mapPpu, advanceV_eq]

/-- Settles O14, register by register. -/
theorem pictureRegisterReads : Obligations.PictureRegisterReads := by
  intro a s
  dsimp only
  refine ⟨fun h => ?_, fun h => ?_, fun h => ?_, fun h => ?_, fun h => ?_, fun h => ?_, fun h => ?_, fun h => ?_⟩
  · rw [ofAddr_of_number .control h, ← putBit7_false]
    exact ⟨rfl, rfl⟩
  · rw [ofAddr_of_number .mask h]
    exact ⟨rfl, rfl⟩
  · rw [ofAddr_of_number .status h]
    exact ⟨rfl, rfl⟩
  · rw [ofAddr_of_number .oamAddress h]
    exact ⟨rfl, rfl⟩
  · rw [ofAddr_of_number .oamData h]
    exact ⟨rfl, rfl⟩
  · rw [ofAddr_of_number .scroll h]
    exact ⟨rfl, rfl⟩
  · rw [ofAddr_of_number .address h]
    exact ⟨rfl, rfl⟩
  · rw [ofAddr_of_number .data h, PpuReg.read_data]
    exact ⟨rfl, rfl⟩

/-- Settles O15, register by register, register 6 by the write toggle. -/
theorem pictureRegisterWrites : Obligations.PictureRegisterWrites := by
  intro a b s
  dsimp only
  refine ⟨fun h => ?_, fun h => ?_, fun h => ?_, fun h => ?_, fun h => ?_, fun h => ?_, fun h hw => ?_,
    fun h hw => ?_, fun h => ?_⟩
  · rw [ofAddr_of_number .control h]
    rfl
  · rw [ofAddr_of_number .mask h]
    rfl
  · rw [ofAddr_of_number .status h]
    rfl
  · rw [ofAddr_of_number .oamAddress h]
    rfl
  · rw [ofAddr_of_number .oamData h, ← byte_add_one]
    rfl
  · rw [ofAddr_of_number .scroll h]
    rfl
  · rw [ofAddr_of_number .address h, ← latch_high]
    simp only [PpuReg.write, State.mapPpu, Ppu.writeAddress, hw]
    rfl
  · rw [ofAddr_of_number .address h, ← latch_low]
    simp only [PpuReg.write, State.mapPpu, Ppu.writeAddress, hw, if_true]
  · rw [ofAddr_of_number .data h, PpuReg.write_data]

/-! ### What a read may change -/

theorem PpuReg.read_status_eq {r : PpuReg} (h : r ≠ .control) (s : State) :
    (r.read s).state.ppu.status = s.ppu.status := by
  cases r with
  | control => exact absurd rfl h
  | data => rw [PpuReg.read_data]
  | mask | status | oamAddress | oamData | scroll | address => rfl

theorem PpuReg.read_w_eq {r : PpuReg} (h : r ≠ .status) (s : State) : (r.read s).state.ppu.w = s.ppu.w := by
  cases r with
  | status => exact absurd rfl h
  | data => rw [PpuReg.read_data]
  | control | mask | oamAddress | oamData | scroll | address => rfl

theorem PpuReg.read_v_eq {r : PpuReg} (h : r ≠ .data) (s : State) :
    (r.read s).state.ppu.v = s.ppu.v ∧ (r.read s).state.picBus = s.picBus := by
  cases r with
  | data => exact absurd rfl h
  | control | mask | status | oamAddress | oamData | scroll | address => exact ⟨rfl, rfl⟩

/-- Does the register window answer a read of this address (20_memory.md R84)? -/
def ReadsWindow (a : Addr) : Prop := a.getLsbD 13 = true ∧ a.getLsbD 15 = false

/-- A read that the register window answers is the read of its register. -/
theorem busRead_of_window {a : Addr} (h : ReadsWindow a) (s : State) :
    busRead a s =
      { value := ((PpuReg.ofAddr a).read s).value,
        state := { ((PpuReg.ofAddr a).read s).state with
          mainBus := readLatch a ((PpuReg.ofAddr a).read s).value } } := by
  obtain ⟨h13, h15⟩ := h
  rw [busRead_state, if_neg (ne_true_of_eq_false h15), if_pos h13]

/-- Any other read leaves the Picture Unit and the picture bus alone. -/
theorem busRead_of_not_window {a : Addr} (h : ¬ ReadsWindow a) (s : State) :
    (busRead a s).state.ppu = s.ppu ∧ (busRead a s).state.picBus = s.picBus := by
  rw [busRead_state]
  by_cases h15 : a.getLsbD 15 = true
  · rw [if_pos h15]
    exact ⟨rfl, rfl⟩
  · have h13 : ¬ a.getLsbD 13 = true := fun h13 => h ⟨h13, eq_false_of_ne_true h15⟩
    rw [if_neg h15, if_neg h13]
    split
    · exact ⟨rfl, rfl⟩
    · dsimp only
      rw [floating_frame]
      exact ⟨rfl, rfl⟩

/-- A read of any address but 0x4000 draws no floating byte. -/
theorem busRead_floatReads {a : Addr} (h : a ≠ 0x4000) (s : State) :
    (busRead a s).state.floatReads = s.floatReads := by
  have hlt := a.isLt
  rw [busRead_state]
  split
  · rfl
  · split
    · dsimp only
      rw [PpuReg.read_frame]
    · split
      · rfl
      · rename_i h15 h13 hr
        have h4 : ¬ a.toNat = 0x4000 := fun e => h (BitVec.eq_of_toNat_eq e)
        have hr' : a.toNat % 0x2000 = 0 ∧ a ≠ 0 := by simpa using hr
        have h0 : ¬ a.toNat = 0 := fun e => hr'.2 (BitVec.eq_of_toNat_eq e)
        rw [bit15_iff] at h15
        rw [bit13_iff] at h13
        omega

/-- Settles O13: the register window is the one device whose reads have side effects, one for each of three
registers. -/
theorem busReadFrame : Obligations.BusReadFrame := by
  intro a s
  refine ⟨busRead_changes a s, ?_⟩
  by_cases hw : ReadsWindow a
  · rw [busRead_of_window hw]
    exact ⟨fun h => PpuReg.read_status_eq (fun e => h ⟨hw, ofAddr_eq_iff.1 e⟩) s,
      fun h => PpuReg.read_w_eq (fun e => h ⟨hw, ofAddr_eq_iff.1 e⟩) s,
      fun h => PpuReg.read_v_eq (fun e => h ⟨hw, ofAddr_eq_iff.1 e⟩) s,
      fun h => busRead_of_window hw s ▸ busRead_floatReads h s⟩
  · obtain ⟨hppu, hpic⟩ := busRead_of_not_window hw s
    rw [hppu, hpic]
    exact ⟨fun _ => rfl, fun _ => rfl, fun _ => ⟨rfl, rfl⟩, fun h => busRead_floatReads h s⟩

end Sys2Proof.Machine
end

section
/-! SUPPORT. What an instruction may change in memory: nothing where it only reads, and what one write at its effective
address reaches where it stores. -/

namespace Sys2Proof.Machine

/-! ### Forms that only read -/

/-- What reads leave alone: the arrays, the parameters, the session, the reports, and the Picture Unit but for
the side effects of a register read (20_memory.md R100). -/
structure MemoryKept (s t : State) : Prop where
  cfg : t.cfg = s.cfg
  ram : t.ram = s.ram
  vram : t.vram = s.vram
  dma : t.dma = s.dma
  reports : t.reports = s.reports
  ppu : ∃ status w v, t.ppu = { s.ppu with status := status, w := w, v := v }

namespace MemoryKept

variable {s t u : State}

theorem refl (s : State) : MemoryKept s s := ⟨rfl, rfl, rfl, rfl, rfl, _, _, _, rfl⟩

theorem trans (h : MemoryKept s t) (k : MemoryKept t u) : MemoryKept s u := by
  obtain ⟨status, w, v, hp⟩ := h.ppu
  obtain ⟨status', w', v', kp⟩ := k.ppu
  exact ⟨k.cfg.trans h.cfg, k.ram.trans h.ram, k.vram.trans h.vram, k.dma.trans h.dma,
    k.reports.trans h.reports, status', w', v', by rw [kp, hp]⟩

theorem withCpu (h : MemoryKept s t) (c : Cpu) : MemoryKept s { t with cpu := c } :=
  ⟨h.cfg, h.ram, h.vram, h.dma, h.reports, h.ppu⟩

theorem mapCpu (h : MemoryKept s t) (f : Cpu → Cpu) : MemoryKept s (t.mapCpu f) := h.withCpu _

theorem oam (h : MemoryKept s t) : t.ppu.oam = s.ppu.oam := by
  obtain ⟨status, w, v, hp⟩ := h.ppu
  rw [hp]

/-- The Picture Unit's frame as the statements write it. -/
theorem ppu_eq (h : MemoryKept s t) : t.ppu = { s.ppu with status := t.ppu.status, w := t.ppu.w, v := t.ppu.v } := by
  obtain ⟨status, w, v, hp⟩ := h.ppu
  rw [hp]

theorem ofBusRead (a : Addr) (s : State) : MemoryKept s (busRead a s).state := by
  rw [busRead_changes]
  exact ⟨rfl, rfl, rfl, rfl, rfl, _, _, _, rfl⟩

theorem ofLocate (m : MemMode) (s : State) : MemoryKept s (locate m s).state := by
  rw [locate_changes]
  exact ⟨rfl, rfl, rfl, rfl, rfl, _, _, _, rfl⟩

theorem ofPop (s : State) : MemoryKept s (pop s).state := (withCpu (refl s) _).trans (ofBusRead _ _)

theorem ofPopWord (s : State) : MemoryKept s (popWord s).state := (ofPop s).trans (ofPop _)

theorem ofIndirect (ptr : Addr) (s : State) : MemoryKept s (indirect ptr s).state :=
  (ofBusRead _ s).trans (ofBusRead _ _)

theorem ofLeaveHandler (s : State) : MemoryKept s (leaveHandler s) :=
  (((ofPop s).mapCpu _).trans (ofPopWord _)).mapCpu _

theorem ofSource {i : Instr} {r : Fetched} (hs : sourceOf i s = some r) : MemoryKept s r.state := by
  rw [sourceOf] at hs
  generalize i.operand = o at hs
  cases o with
  | imm b =>
    cases hs
    exact refl s
  | mem m =>
    cases hs
    exact (ofLocate m s).trans (ofBusRead _ _)
  | imp | acc | ind _ | rel _ => cases hs

/-- The accesses of a storing form before its write are reads. -/
theorem ofBeforeStore (i : Instr) (m : MemMode) (s : State) : MemoryKept s (beforeStore i m s) := by
  rw [beforeStore]
  split
  · exact ofLocate m s
  · exact (ofLocate m s).trans (ofBusRead _ _)

/-- The instructions outside the three access classes, but for the pushing ones: a pop or a pointer read at
most. -/
theorem ofUnclassed {i : Instr} (hr : readOp i.mnemonic = none) (hst : storeOp i.mnemonic = none)
    (hm : modifyOp i.mnemonic = none) (hp : pushes i = false) (he : exec i s = .next t) : MemoryKept s t := by
  have r := refl s
  cases i <;> cases hr <;> cases hst <;> cases hm
  case bpl | bmi | bvc | bvs | bcc | bcs | bne | beq =>
    obtain ⟨pc, pending, rfl⟩ := branch_changes he
    exact r.withCpu _
  case brk | php | pha | jsr => exact absurd hp (by simp [pushes, Instr.mnemonic, describe])
  all_goals cases he
  case plp | pla => exact ((ofPop s).mapCpu _).mapCpu _
  case rts => exact ((ofPopWord s).mapCpu _).mapCpu _
  case rti => exact (ofLeaveHandler s).mapCpu _
  case jmpInd => exact ((ofIndirect _ s).mapCpu _).mapCpu _
  all_goals exact r.withCpu _

end MemoryKept

theorem storesOperand_iff {i : Instr} {m : MemMode} (h : i.operand = .mem m) :
    storesOperand i = true ↔
      i.mnemonic ∈ [.sta, .stx, .sty] ∨ i.mnemonic ∈ [.inc, .dec, .asl, .lsr, .rol, .ror] := by
  rw [storesOperand, h, decide_eq_true_eq, ← List.mem_append]
  rfl

theorem storeOp_iff {m : Mnemonic} : (∃ reg, storeOp m = some reg) ↔ m ∈ [.sta, .stx, .sty] := by
  rw [← Option.isSome_iff_exists]
  cases m <;> decide

theorem modifyOp_iff {m : Mnemonic} : (∃ f, modifyOp m = some f) ↔ m ∈ [.inc, .dec, .asl, .lsr, .rol, .ror] := by
  rw [← Option.isSome_iff_exists]
  cases m <;> decide

/-- Settles O41, by access class; the two classes that write memory are the ones excluded. -/
theorem nonStoringFormsLeaveMemory : Obligations.NonStoringFormsLeaveMemory := by
  intro i s t hs hp he
  have hn := ne_true_of_eq_false hs
  have h : MemoryKept s t := by
    cases exec_cases he with
    | read _ source => exact (MemoryKept.ofSource source).withCpu _
    | store op operand => exact absurd ((storesOperand_iff operand).2 (.inl (storeOp_iff.1 ⟨_, op⟩))) hn
    | accumulator => exact (MemoryKept.refl s).withCpu _
    | modify op operand => exact absurd ((storesOperand_iff operand).2 (.inr (modifyOp_iff.1 ⟨_, op⟩))) hn
    | unclassed reads stores modifies answer => exact .ofUnclassed reads stores modifies hp answer
  rw [h.ram, h.vram, h.oam, h.cfg]
  exact ⟨fun _ => ⟨rfl, rfl, rfl, rfl, rfl⟩, h.dma, h.reports, h.ppu_eq⟩

/-! ### Forms that store -/

theorem beforeStore_of_store {i : Instr} (h : i.mnemonic ∈ [.sta, .stx, .sty]) (m : MemMode) (s : State) :
    beforeStore i m s = (locate m s).state := if_pos h

theorem beforeStore_of_modify {i : Instr} (h : i.mnemonic ∈ [.inc, .dec, .asl, .lsr, .rol, .ror]) (m : MemMode)
    (s : State) : beforeStore i m s = (cpuRead (locate m s).ea (locate m s).state).state := by
  have disjoint : ∀ k ∈ [Mnemonic.inc, .dec, .asl, .lsr, .rol, .ror], k ∉ [Mnemonic.sta, .stx, .sty] := by decide
  exact if_neg (disjoint _ h)

/-- A storing form is one processor write at its effective address, on the machine before that write. -/
theorem exec_storing {i : Instr} {m : MemMode} {s t : State} (hs : storesOperand i = true)
    (ho : i.operand = .mem m) (he : exec i s = .next t) :
    ∃ v cpu, t = { cpuWrite (locate m s).ea v (beforeStore i m s) with cpu := cpu } := by
  rcases (storesOperand_iff ho).1 hs with h | h
  · obtain ⟨reg, hreg⟩ := storeOp_iff.2 h
    obtain ⟨m', hm, e⟩ := exec_store i reg hreg s
    cases ho.symm.trans hm
    cases e.symm.trans he
    exact ⟨_, _, by rw [beforeStore_of_store h]⟩
  · obtain ⟨f, hf⟩ := modifyOp_iff.2 h
    rcases exec_modify i f hf s with ⟨hacc, -⟩ | ⟨m', hm, e⟩
    · cases ho.symm.trans hacc
    · cases ho.symm.trans hm
      cases e.symm.trans he
      exact ⟨_, _, by rw [beforeStore_of_modify h]⟩

/-- Outside the register window the accesses before the write have no side effect. -/
theorem beforeStore_ppu {i : Instr} {m : MemMode} {s : State} (h : (locate m s).ea.getLsbD 13 = false) :
    (beforeStore i m s).ppu = s.ppu := by
  have hw : ¬ ReadsWindow (locate m s).ea := fun hw => ne_true_of_eq_false h hw.1
  rw [beforeStore]
  split
  · exact locate_ppu m s
  · exact (busRead_of_not_window hw _).1.trans (locate_ppu m s)

/-- Register 4 is the one whose write reaches OAM (R266). -/
theorem PpuReg.write_oam (r : PpuReg) (b : Byte) (s : State) :
    (r.write b s).ppu.oam = if r = .oamData then Memory.write s.ppu.oam s.ppu.oamaddr.toNat b else s.ppu.oam := by
  cases r with
  | address =>
    simp only [PpuReg.write, State.mapPpu, Ppu.writeAddress]
    split <;> rfl
  | data =>
    rw [PpuReg.write_data]
    rfl
  | control | mask | status | oamAddress | oamData | scroll => rfl

/-- Register 7 is the one whose write reaches picture RAM, where the latch addresses it (R90, R269). -/
theorem PpuReg.write_vram (r : PpuReg) (b : Byte) (s : State) :
    (r.write b s).vram =
      if r = .data ∧ s.ppu.v.getLsbD 13 = true then Memory.write s.vram (s.ppu.v.toNat % 2048) b else s.vram := by
  cases r with
  | data =>
    rw [PpuReg.write_data, picWrite_eq]
    simp only [true_and]
  | control | mask | status | oamAddress | oamData | scroll | address => rfl

theorem busWrite_ram (a : Addr) (v : Byte) (s : State) :
    (busWrite a v s).ram =
      if a.toNat % 0x2000 ≠ 0 ∨ a = 0 then Memory.write s.ram (a.toNat % 2048) v else s.ram := by
  rw [busWrite_eq]
  dsimp only
  split
  · rw [PpuReg.write_frame]
  · rfl

theorem busWrite_ppu_of_not_window {a : Addr} (h : a.getLsbD 13 = false) (v : Byte) (s : State) :
    (busWrite a v s).ppu = s.ppu := by
  rw [busWrite_eq, if_neg (ne_true_of_eq_false h)]

theorem busWrite_oam (a : Addr) (v : Byte) (s : State) :
    (busWrite a v s).ppu.oam =
      if a.getLsbD 13 = true ∧ a.toNat % 8 = 4 then Memory.write s.ppu.oam s.ppu.oamaddr.toNat v
      else s.ppu.oam := by
  rw [busWrite_eq]
  dsimp only
  by_cases h : a.getLsbD 13 = true
  · rw [if_pos h, PpuReg.write_oam]
    simp only [h, true_and, ofAddr_eq_iff, PpuReg.number]
  · rw [if_neg h]
    exact (if_neg fun hc => h hc.1).symm

theorem busWrite_vram (a : Addr) (v : Byte) (s : State) :
    (busWrite a v s).vram =
      if a.getLsbD 13 = true ∧ a.toNat % 8 = 7 ∧ s.ppu.v.getLsbD 13 = true then
        Memory.write s.vram (s.ppu.v.toNat % 2048) v
      else s.vram := by
  rw [busWrite_eq]
  dsimp only
  by_cases h : a.getLsbD 13 = true
  · rw [if_pos h, PpuReg.write_vram]
    simp only [h, true_and, ofAddr_eq_iff, PpuReg.number]
  · rw [if_neg h]
    exact (if_neg fun hc => h hc.1).symm

/-- A write that may be dropped changes at most the one cell. -/
theorem read_ite_write {c : Prop} [Decidable c] (m : Memory) {i k : Nat} (v : Byte) (h : ¬ (c ∧ k = i)) :
    Memory.read (if c then Memory.write m i v else m) k = Memory.read m k := by
  split
  · next hc => exact Memory.read_write_other m v fun hk => h ⟨hc, hk⟩
  · rfl

theorem pic_bit13 (a : PicAddr) : a.getLsbD 13 = true ↔ 0x2000 ≤ a.toNat := by
  have := a.isLt
  rw [bit13_iff]
  omega

/-- Settles O42: the form is one processor write, and each array's closed form after it says which cell. -/
theorem storingFormsChangeOnlyTheAddressedByte : Obligations.StoringFormsChangeOnlyTheAddressedByte := by
  intro i m s t hs ho he
  dsimp only
  have kept := MemoryKept.ofBeforeStore i m s
  obtain ⟨v, cpu, rfl⟩ := exec_storing hs ho he
  refine ⟨fun k hk => ?_, fun k hk => ?_, fun k hk => ?_, fun k => ?_, fun h => ?_, fun h => ?_, fun h => ?_⟩
  · rw [cpuWrite_ram, busWrite_ram, read_ite_write _ v hk, kept.ram]
  · rw [cpuWrite_ppu, busWrite_oam, read_ite_write, kept.oam]
    rwa [and_assoc]
  · rw [cpuWrite_vram, busWrite_vram, read_ite_write, kept.vram]
    rwa [pic_bit13, and_assoc, and_assoc]
  · rw [cpuWrite_cfg, kept.cfg]
    exact ⟨rfl, rfl⟩
  · rw [cpuWrite_dma h, kept.dma]
  · rw [cpuWrite_reports h, kept.reports]
  · rw [cpuWrite_ppu, busWrite_ppu_of_not_window h, beforeStore_ppu h]

end Sys2Proof.Machine
end

section
/-! SUPPORT. A DMA session byte by byte: a fetch cycle and a store cycle move one byte, and the bytes moved so far stand in
OAM in a row from where `oamaddr` began, modulo 256 (60_exceptions.md R272, R273). -/

namespace Sys2Proof.Machine

/-- The session armed from page `b` when it is about to fetch byte `k`; `latch` still holds the byte before it. -/
def sessionAt (b : Byte) (k : Nat) (latch : Byte) : DmaSession where
  sourceBase := wordOf 0x00 b
  destination := 0x2004
  length := 256
  cursor := k
  phase := .fetch
  latch := latch

theorem dmaBegin_dma (b : Byte) (s : State) : (dmaBegin b s).dma = some (sessionAt b 0 0x00) := rfl

theorem wordOf_add_ofNat (b : Byte) (k : Nat) :
    wordOf 0x00 b + BitVec.ofNat 16 k = BitVec.ofNat 16 (256 * b.toNat + k) := by
  rw [wordOf_eq]
  exact BitVec.ofNat_add_ofNat ..

/-- The machine after a fetch cycle that read `r` and its store cycle, but for the session. -/
def storedByte (r : Read) : State :=
  { r.state with
    mainBus := writeLatch 0x2004 r.value
    ram := Memory.write r.state.ram 4 r.value
    ppu := Ppu.writeOamData r.value r.state.ppu }

/-- Two cycles of a session move one byte. -/
theorem driveDma_two {b latch : Byte} {k : Nat} {s : State} (h : s.dma = some (sessionAt b k latch)) :
    driveDma 2 s =
      let r := busRead (BitVec.ofNat 16 (256 * b.toNat + k)) s
      { storedByte r with dma := if k + 1 = 256 then none else some (sessionAt b (k + 1) r.value) } := by
  have hf : dmaCycle (sessionAt b k latch) s =
      let r := busRead (BitVec.ofNat 16 (256 * b.toNat + k)) s
      { r.state with dma := some { sessionAt b k r.value with phase := .store } } := by
    rw [← wordOf_add_ofNat]
    rfl
  rw [driveDma_session 1 h, hf, driveDma_session 0 rfl]
  show dmaCycle _ _ = _
  simp only [dmaCycle, sessionAt, busWrite_oamData]
  split <;> rfl

theorem driveDma_cfg (n : Nat) (s : State) : (driveDma n s).cfg = s.cfg := by
  induction n generalizing s with
  | zero => rfl
  | succ n ih =>
    cases h : s.dma with
    | none => rw [driveDma_idle _ h]
    | some d => rw [driveDma_session n h, ih, dmaCycle_cfg]

/-- The byte that the fetch cycle of byte `k` reads in a session armed from page `b`. -/
def fetchedByte (b : Byte) (s : State) (k : Nat) : Byte :=
  (busRead (BitVec.ofNat 16 (256 * b.toNat + k)) (driveDma (2 * k) (dmaBegin b s))).value

/-- After `2 * k` cycles: `k` bytes have been moved. -/
structure Copied (b : Byte) (s : State) (k : Nat) (t : State) : Prop where
  session : k < 256 → ∃ latch, t.dma = some (sessionAt b k latch)
  ended : k = 256 → t.dma = none
  oamaddr : t.ppu.oamaddr.toNat = (s.ppu.oamaddr.toNat + k) % 256
  bytes : ∀ j, j < k → Memory.read t.ppu.oam ((s.ppu.oamaddr.toNat + j) % 256) = fetchedByte b s j

/-- One more byte: it goes to a cell that holds none of the bytes moved before. -/
theorem Copied.succ {b : Byte} {s : State} {k : Nat} (hk : k < 256)
    (h : Copied b s k (driveDma (2 * k) (dmaBegin b s))) :
    Copied b s (k + 1) (driveDma (2 * (k + 1)) (dmaBegin b s)) := by
  obtain ⟨latch, hs⟩ := h.session hk
  rw [Nat.mul_succ, driveDma_add, driveDma_two hs]
  refine ⟨fun hlt => ⟨_, if_neg (by omega)⟩, fun heq => if_pos heq, ?_, fun j hj => ?_⟩
  · have ho := h.oamaddr
    simp only [storedByte, Ppu.writeOamData, busRead_ppu_oamaddr, byte_add_one, BitVec.toNat_ofNat]
    omega
  · simp only [storedByte, Ppu.writeOamData, busRead_ppu_oamaddr, busRead_ppu_oam, h.oamaddr]
    rcases Nat.lt_succ_iff_lt_or_eq.1 hj with hlt | rfl
    · rw [Memory.read_write_other _ _ (by omega), h.bytes j hlt]
    · exact Memory.read_write_same ..

/-- A session moves its bytes one by one, in order. -/
theorem dma_copied (b : Byte) (s : State) {k : Nat} (hk : k ≤ 256) :
    Copied b s k (driveDma (2 * k) (dmaBegin b s)) := by
  induction k with
  | zero => exact ⟨fun _ => ⟨_, dmaBegin_dma b s⟩, nofun, (Nat.mod_eq_of_lt s.ppu.oamaddr.isLt).symm, nofun⟩
  | succ k ih => exact (ih (by omega)).succ (by omega)

/-- From a program ROM page every fetch cycle reads the ROM, which the cycles before it left alone. -/
theorem fetchedByte_rom {b : Byte} (hb : 0x80 ≤ b.toNat) (s : State) {k : Nat} (hk : k < 256) :
    fetchedByte b s k = Memory.read s.cfg.prg ((256 * b.toNat + k) % s.cfg.prgSize.bytes) := by
  have hlt := b.isLt
  have ha : (BitVec.ofNat 16 (256 * b.toNat + k)).toNat = 256 * b.toNat + k := by
    rw [BitVec.toNat_ofNat]
    omega
  have h15 : (BitVec.ofNat 16 (256 * b.toNat + k)).getLsbD 15 = true := by
    rw [bit15_iff, ha]
    omega
  rw [fetchedByte, busRead_of_rom h15, driveDma_cfg, ha]
  rfl

/-- Settles O51: the 512 cycles move the 256 bytes that the fetch cycles read. -/
theorem dmaFromRomCopiesTheRom : Obligations.DmaFromRomCopiesTheRom := by
  intro b s hb k hk
  have copied := dma_copied b s (Nat.le_refl 256)
  rw [← fetchedByte_rom hb s hk, show 512 = 2 * 256 from rfl]
  exact copied.bytes k hk

end Sys2Proof.Machine
end

section
/-! SUPPORT. Decoding and encoding are inverse: the opcode table builds every instruction back from its bytes, each of
its entries encodes to the bytes it reads, and the opcode bytes it lacks are the unmapped ones (30_encoding.md R133 to
R137). -/

namespace Sys2Proof

/-! ### Instructions to bytes and back -/

section
open Laws.Opcode

/-- Every instruction's opcode byte has a table entry that builds it, each by its own lemma. -/
theorem decodeOpcode_builds : (i : Instr) → Statement i
  | .brk => brk | .oraIzx z => oraIzx z | .oraZp z => oraZp z | .aslZp z => aslZp z | .php => php
  | .oraImm imm => oraImm imm | .aslAcc => aslAcc | .oraAbs a => oraAbs a | .aslAbs a => aslAbs a
  | .bpl d => bpl d | .oraIzy z => oraIzy z | .oraZpx z => oraZpx z | .aslZpx z => aslZpx z | .clc => clc
  | .oraAby a => oraAby a | .oraAbx a => oraAbx a | .aslAbx a => aslAbx a | .jsr a => jsr a
  | .andIzx z => andIzx z | .bitZp z => bitZp z | .andZp z => andZp z | .rolZp z => rolZp z | .plp => plp
  | .andImm imm => andImm imm | .rolAcc => rolAcc | .bitAbs a => bitAbs a | .andAbs a => andAbs a
  | .rolAbs a => rolAbs a | .bmi d => bmi d | .andIzy z => andIzy z | .andZpx z => andZpx z
  | .rolZpx z => rolZpx z | .sec => sec | .andAby a => andAby a | .andAbx a => andAbx a | .rolAbx a => rolAbx a
  | .rti => rti | .eorIzx z => eorIzx z | .eorZp z => eorZp z | .lsrZp z => lsrZp z | .pha => pha
  | .eorImm imm => eorImm imm | .lsrAcc => lsrAcc | .jmpAbs a => jmpAbs a | .eorAbs a => eorAbs a
  | .lsrAbs a => lsrAbs a | .bvc d => bvc d | .eorIzy z => eorIzy z | .eorZpx z => eorZpx z
  | .lsrZpx z => lsrZpx z | .cli => cli | .eorAby a => eorAby a | .eorAbx a => eorAbx a | .lsrAbx a => lsrAbx a
  | .rts => rts | .adcIzx z => adcIzx z | .adcZp z => adcZp z | .rorZp z => rorZp z | .pla => pla
  | .adcImm imm => adcImm imm | .rorAcc => rorAcc | .jmpInd ptr => jmpInd ptr | .adcAbs a => adcAbs a
  | .rorAbs a => rorAbs a | .bvs d => bvs d | .adcIzy z => adcIzy z | .adcZpx z => adcZpx z
  | .rorZpx z => rorZpx z | .sei => sei | .adcAby a => adcAby a | .adcAbx a => adcAbx a | .rorAbx a => rorAbx a
  | .staIzx z => staIzx z | .styZp z => styZp z | .staZp z => staZp z | .stxZp z => stxZp z | .dey => dey
  | .txa => txa | .styAbs a => styAbs a | .staAbs a => staAbs a | .stxAbs a => stxAbs a | .bcc d => bcc d
  | .staIzy z => staIzy z | .styZpx z => styZpx z | .staZpx z => staZpx z | .stxZpy z => stxZpy z | .tya => tya
  | .staAby a => staAby a | .txs => txs | .staAbx a => staAbx a | .ldyImm imm => ldyImm imm
  | .ldaIzx z => ldaIzx z | .ldxImm imm => ldxImm imm | .ldyZp z => ldyZp z | .ldaZp z => ldaZp z
  | .ldxZp z => ldxZp z | .tay => tay | .ldaImm imm => ldaImm imm | .tax => tax | .ldyAbs a => ldyAbs a
  | .ldaAbs a => ldaAbs a | .ldxAbs a => ldxAbs a | .bcs d => bcs d | .ldaIzy z => ldaIzy z
  | .ldyZpx z => ldyZpx z | .ldaZpx z => ldaZpx z | .ldxZpy z => ldxZpy z | .clv => clv | .ldaAby a => ldaAby a
  | .tsx => tsx | .ldyAbx a => ldyAbx a | .ldaAbx a => ldaAbx a | .ldxAby a => ldxAby a
  | .cpyImm imm => cpyImm imm | .cmpIzx z => cmpIzx z | .cpyZp z => cpyZp z | .cmpZp z => cmpZp z
  | .decZp z => decZp z | .iny => iny | .cmpImm imm => cmpImm imm | .dex => dex | .cpyAbs a => cpyAbs a
  | .cmpAbs a => cmpAbs a | .decAbs a => decAbs a | .bne d => bne d | .cmpIzy z => cmpIzy z
  | .cmpZpx z => cmpZpx z | .decZpx z => decZpx z | .cld => cld | .cmpAby a => cmpAby a | .cmpAbx a => cmpAbx a
  | .decAbx a => decAbx a | .cpxImm imm => cpxImm imm | .sbcIzx z => sbcIzx z | .cpxZp z => cpxZp z
  | .sbcZp z => sbcZp z | .incZp z => incZp z | .inx => inx | .sbcImm imm => sbcImm imm | .nop => nop
  | .cpxAbs a => cpxAbs a | .sbcAbs a => sbcAbs a | .incAbs a => incAbs a | .beq d => beq d
  | .sbcIzy z => sbcIzy z | .sbcZpx z => sbcZpx z | .incZpx z => incZpx z | .sed => sed | .sbcAby a => sbcAby a
  | .sbcAbx a => sbcAbx a | .incAbx a => incAbx a

end

/-- Settles O1: the table's entry for the opcode byte builds the instruction from its operand bytes. -/
theorem decodeEncodeRoundTrip : Obligations.DecodeEncodeRoundTrip := by
  intro i rest
  obtain ⟨form, hop, hbuilds⟩ := decodeOpcode_builds i
  rw [encode, List.cons_append, decode, hop]
  cases form with
  | f1 j =>
    obtain ⟨rfl, hbytes⟩ := hbuilds
    rw [hbytes]
    rfl
  | f2 mk =>
    obtain ⟨b, rfl, hbytes⟩ := hbuilds
    rw [hbytes]
    rfl
  | f3 mk =>
    obtain ⟨a, rfl, hbytes⟩ := hbuilds
    rw [hbytes]
    exact congrArg (fun a => Decoded.ok (mk a) rest) (wordOf_loByte_hiByte a)

/-! ### Bytes to instructions and back -/

/-- What a format builds, from any operand, encodes to the opcode byte and that operand's bytes. -/
def Form.Encodes (op : Byte) (form : Form) : Prop :=
  ∀ (b : Byte) (a : Addr),
    match form with
    | .f1 i => encode i = [op]
    | .f2 mk => encode (mk b) = [op, b]
    | .f3 mk => encode (mk a) = op :: wordBytes a

theorem opcodeRow_encodes (hi : Nat) : ∀ e ∈ opcodeRow hi, e.2.Encodes e.1 := by
  unfold opcodeRow
  split <;>
    · intro e he
      fin_cases he <;> exact fun _ _ => rfl

theorem findForm_mem {op : Byte} {form : Form} {es : List (Byte × Form)} (h : findForm op es = some form) :
    (op, form) ∈ es := by
  induction es with
  | nil => cases h
  | cons e es ih =>
    obtain ⟨op', form'⟩ := e
    by_cases heq : op' = op
    · cases heq
      cases (if_pos rfl).symm.trans h
      exact List.mem_cons_self
    · exact List.mem_cons_of_mem _ (ih ((if_neg heq).symm.trans h))

theorem decodeOpcode_encodes {op : Byte} {form : Form} (h : decodeOpcode op = some form) : form.Encodes op :=
  opcodeRow_encodes _ _ (findForm_mem h)

/-- Settles O2: the entry of the opcode byte encodes what it builds to the bytes it read. -/
theorem decodedBytesAreTheEncoding : Obligations.DecodedBytesAreTheEncoding := by
  intro bytes rest i h
  match bytes with
  | [] => cases h
  | op :: tail =>
    rw [decode] at h
    cases hop : decodeOpcode op with
    | none =>
      rw [hop] at h
      cases h
    | some form =>
      have hencodes := decodeOpcode_encodes hop
      rw [hop] at h
      cases form with
      | f1 j =>
        cases h
        exact congrArg (· ++ rest) (hencodes 0 0).symm
      | f2 mk =>
        match tail, h with
        | b :: tail, h =>
          cases h
          exact congrArg (· ++ rest) (hencodes b 0).symm
      | f3 mk =>
        match tail, h with
        | lo :: hi :: tail, h =>
          cases h
          rw [hencodes 0 (Machine.wordOf lo hi), wordBytes, loByte_wordOf, hiByte_wordOf]
          rfl

/-! ### Unmapped opcode bytes -/

theorem decode_eq_unmapped_iff (op : Byte) (rest : List Byte) :
    decode (op :: rest) = .unmapped op ↔ decodeOpcode op = none := by
  rw [decode]
  cases decodeOpcode op with
  | none => exact iff_of_true rfl rfl
  | some form =>
    refine iff_of_false ?_ nofun
    match form, rest with
    | .f1 _, _ | .f2 _, [] | .f2 _, _ :: _ | .f3 _, [] | .f3 _, [_] | .f3 _, _ :: _ :: _ => nofun

/-- The opcode bytes without a table entry, in rising order. -/
def unmappedOpcodes : List Byte :=
  ((List.range 256).map (BitVec.ofNat 8)).filter fun op => (decodeOpcode op).isNone

theorem mem_unmappedOpcodes (op : Byte) : op ∈ unmappedOpcodes ↔ decodeOpcode op = none := by
  have hop : op ∈ (List.range 256).map (BitVec.ofNat 8) :=
    List.mem_map.2 ⟨op.toNat, List.mem_range.2 op.isLt, (BitVec.ofNat_toNat 8 op).trans (BitVec.setWidth_eq op)⟩
  rw [unmappedOpcodes, List.mem_filter, Option.isNone_iff_eq_none]
  exact and_iff_right hop

/-- Settles O3: the listed bytes are, in their order, those without a table entry. -/
theorem unmappedOpcodesAreTheListedOnes : Obligations.UnmappedOpcodesAreTheListedOnes := by
  intro op rest
  rw [decode_eq_unmapped_iff, ← mem_unmappedOpcodes]
  exact iff_of_eq (congrArg (op ∈ ·) (show unmappedOpcodes = _ by decide))

/-- Settles O4, by running the decoder on each word. -/
theorem sampleWordsDecode : Obligations.SampleWordsDecode :=
  ⟨by decide, by decide, by decide, by decide, by decide, by decide, by decide, by decide, by decide⟩

end Sys2Proof
end

section
/-! SUPPORT. The addressing modes, and the instructions that read an operand, store one or modify one, in the terms of
their statements; the cycle in which an instruction is fetched. -/

namespace Sys2Proof.Machine

/-! ### Addressing modes -/

theorem zext16_add (a b : Byte) : zext16 (a + b) = BitVec.ofNat 16 ((a.toNat + b.toNat) % 256) := by
  rw [zext16_eq, BitVec.toNat_add]

/-- A base address read as two bytes, indexed: the page is left when the low bytes carry. -/
theorem indexed_wordOf (lo hi index : Byte) (s : State) :
    indexed (wordOf lo hi) index s =
      { ea := BitVec.ofNat 16 (256 * hi.toNat + lo.toNat + index.toNat),
        crossed := decide (256 ≤ lo.toNat + index.toNat), state := s } := by
  rw [indexed_eq, ← toNat_loByte, loByte_wordOf, toNat_wordOf]

/-- Settles O5: page-zero addresses wrap at 256, both bytes of a pointer come from page zero, and an index may carry out
of the base's low byte. -/
theorem memoryModesGiveTheEffectiveAddress : Obligations.MemoryModesGiveTheEffectiveAddress := by
  intro s z a
  refine ⟨?zp, ?zpx, ?zpy, rfl, indexed_eq .., indexed_eq .., ?izx, ?izy⟩
  case zp => rw [locate, zext16_eq]
  case zpx => rw [locate, zext16_add]
  case zpy => rw [locate, zext16_add]
  case izx =>
    have hp : (z + s.cpu.x).toNat = (z.toNat + s.cpu.x.toNat) % 256 := BitVec.toNat_add ..
    simp only [locate, zeroPagePointer_eq, wordOf_eq, zext16_add, hp]
    rfl
  case izy =>
    simp only [locate, zeroPagePointer_eq, indexed_wordOf, zext16_add]
    rfl

/-- Settles O6: the pointer's second byte lies one further in the same page. -/
theorem indirectPointerStaysInItsPage : Obligations.IndirectPointerStaysInItsPage := by
  intro ptr s
  have second : wordOf (loByte ptr + 1) (hiByte ptr) =
      BitVec.ofNat 16 (256 * (ptr.toNat / 256) + (ptr.toNat + 1) % 256) := by
    rw [wordOf_eq, toNat_hiByte, BitVec.toNat_add, toNat_loByte]
    exact congrArg (fun n => BitVec.ofNat 16 (256 * (ptr.toNat / 256) + n)) (Nat.mod_add_mod ..)
  simp only [indirect, second, wordOf_eq]

/-! ### Instructions that read an operand -/

/-- What a read-class form answers. -/
theorem exec_reads {i : Instr} {f : Byte → Cpu → Cpu} (h : readOp i.mnemonic = some f) (s : State) :
    ∃ r, sourceOf i s = some r ∧
      exec i s = .next { r.state with cpu := { f r.value s.cpu with pending := owed i r.crossed.toNat s } } := by
  obtain ⟨r, source, -, -, answer⟩ := exec_read i f h s
  exact ⟨r, source, answer⟩

/-- Settles O17: each is a register write from the operand read. -/
theorem loadsWriteTheRegisterAndNZ : Obligations.LoadsWriteTheRegisterAndNZ := by
  intro i s
  refine ⟨fun h => ?_, fun h => ?_, fun h => ?_⟩
  · obtain ⟨r, source, answer⟩ := exec_reads (congrArg readOp h) s
    rw [lda, writeA_eq] at answer
    exact ⟨r, source, answer⟩
  · obtain ⟨r, source, answer⟩ := exec_reads (congrArg readOp h) s
    rw [ldx, writeX_eq] at answer
    exact ⟨r, source, answer⟩
  · obtain ⟨r, source, answer⟩ := exec_reads (congrArg readOp h) s
    rw [ldy, writeY_eq] at answer
    exact ⟨r, source, answer⟩

/-- Settles O20: the adder's result, carry and overflow are those of the sums as numbers. -/
theorem adcAddsWithCarry : Obligations.AdcAddsWithCarry := by
  intro i s h
  obtain ⟨r, source, answer⟩ := exec_reads (congrArg readOp h) s
  simp only [adc, addInto_eq, add8_r, add8_cout, add8_ovf] at answer
  exact ⟨r, source, answer⟩

/-- Adding the complement with the carry subtracts the operand and the borrow (41_arithmetic_logic.md R172). -/
theorem sbc_eq (m : Byte) (c : Cpu) :
    sbc m c =
      let borrow : Int := 1 - (c.p.getLsbD 0).toNat
      let diff : Int := c.a.toNat - m.toNat - borrow
      let signed : Int := c.a.toInt - m.toInt - borrow
      { c with
        a := BitVec.ofInt 8 diff
        p := withNZCV (BitVec.ofInt 8 diff) (decide (0 ≤ diff)) (decide (signed < -128 ∨ 127 < signed)) c.p } := by
  have hm := m.isLt
  have hr : BitVec.ofNat 8 (c.a.toNat + (255 - m.toNat) + (c.p.getLsbD 0).toNat) =
      BitVec.ofInt 8 (c.a.toNat - m.toNat - (1 - (c.p.getLsbD 0).toNat)) := by
    apply BitVec.eq_of_toNat_eq
    rw [BitVec.toNat_ofNat, BitVec.toNat_ofInt]
    omega
  have hc : 256 ≤ c.a.toNat + (255 - m.toNat) + (c.p.getLsbD 0).toNat ↔
      0 ≤ (c.a.toNat - m.toNat - (1 - (c.p.getLsbD 0).toNat) : Int) := by omega
  have hv : c.a.toInt + (-1 - m.toInt) + (c.p.getLsbD 0).toNat =
      c.a.toInt - m.toInt - (1 - (c.p.getLsbD 0).toNat) := by omega
  simp only [sbc, addInto_eq, add8_r, add8_cout, add8_ovf, toNat_complement, toInt_complement, hr, hc, hv]

/-- Settles O21: the adder on the complemented operand. -/
theorem sbcSubtractsWithBorrow : Obligations.SbcSubtractsWithBorrow := by
  intro i s h
  obtain ⟨r, source, answer⟩ := exec_reads (congrArg readOp h) s
  rw [sbc_eq] at answer
  exact ⟨r, source, answer⟩

/-- The result of a logic mnemonic. -/
def logicResult (m : Mnemonic) (a v : Byte) : Byte :=
  if m = .and then a &&& v else if m = .ora then a ||| v else a ^^^ v

theorem readOp_logic {m : Mnemonic} (h : m ∈ [Mnemonic.and, .ora, .eor]) :
    readOp m = some fun v c => c.writeA (logicResult m c.a v) := by
  fin_cases h <;> rfl

theorem getLsbD_logicResult (m : Mnemonic) (a v : Byte) (k : Nat) :
    (logicResult m a v).getLsbD k =
      if m = .and then a.getLsbD k && v.getLsbD k
      else if m = .ora then a.getLsbD k || v.getLsbD k
      else a.getLsbD k != v.getLsbD k := by
  rw [logicResult]
  split
  · exact BitVec.getLsbD_and
  · split
    · exact BitVec.getLsbD_or
    · exact BitVec.getLsbD_xor

/-- Settles O22: the result is written to the accumulator, and each of its bits comes from the same bit of both. -/
theorem logicCombinesBitByBit : Obligations.LogicCombinesBitByBit := by
  intro i s h
  obtain ⟨r, source, answer⟩ := exec_reads (readOp_logic h) s
  rw [writeA_eq] at answer
  exact ⟨r, _, source, fun k _ => getLsbD_logicResult .., answer⟩

/-- The register a compare mnemonic compares. -/
def comparedRegister (m : Mnemonic) (c : Cpu) : Byte :=
  if m = .cmp then c.a else if m = .cpx then c.x else c.y

theorem readOp_compare {m : Mnemonic} (h : m ∈ [Mnemonic.cmp, .cpx, .cpy]) :
    readOp m = some fun v c => c.compare (comparedRegister m c) v := by
  fin_cases h <;> rfl

/-- Settles O23: each is a compare of its register. -/
theorem comparesSetCarryZeroNegative : Obligations.ComparesSetCarryZeroNegative := by
  intro i s h
  obtain ⟨r, source, answer⟩ := exec_reads (readOp_compare h) s
  rw [compare_eq] at answer
  exact ⟨r, source, answer⟩

/-- Settles O24, by the flags of a bit test. -/
theorem bitTestsTheOperand : Obligations.BitTestsTheOperand := by
  intro i s h
  obtain ⟨r, source, answer⟩ := exec_reads (congrArg readOp h) s
  rw [bitTest_eq] at answer
  exact ⟨r, source, answer⟩

/-! ### Instructions that write their operand -/

/-- Settles O18: each is the write-class form of its register. -/
theorem storesWriteTheRegisterToMemory : Obligations.StoresWriteTheRegisterToMemory := by
  intro i s
  exact ⟨fun h => exec_store i _ (congrArg storeOp h) s, fun h => exec_store i _ (congrArg storeOp h) s,
    fun h => exec_store i _ (congrArg storeOp h) s⟩

theorem modifyOp_increment {m : Mnemonic} (h : m ∈ [Mnemonic.inc, .dec]) :
    modifyOp m = some fun v c =>
      { result := BitVec.ofNat 8 (v.toNat + if m = .inc then 1 else 255), cpu := c } := by
  fin_cases h
  · exact congrArg some (funext fun v => funext fun c => congrArg (Modified.mk · c) (byte_add_one v))
  · exact congrArg some (funext fun v => funext fun c => congrArg (Modified.mk · c) (byte_sub_one v))

theorem operand_ne_acc_of_increment {i : Instr} (h : i.mnemonic ∈ [.inc, .dec]) : i.operand ≠ .acc := by
  intro hacc
  cases i <;> cases hacc <;> exact absurd h (by decide)

/-- Settles O25: the read-modify-write form; `SetNZ` follows the write. -/
theorem memoryIncrementsWrapAndSetNZ : Obligations.MemoryIncrementsWrapAndSetNZ := by
  intro i s h
  rcases exec_modify i _ (modifyOp_increment h) s with ⟨hacc, -⟩ | ⟨m, hmem, answer⟩
  · exact absurd hacc (operand_ne_acc_of_increment h)
  · simp only [setNZ_eq] at answer
    exact ⟨m, hmem, answer⟩

/-- The accumulator form of a shift or rotate, its flags written. -/
theorem writeA_shifted (r : Byte) (co : Bool) (c : Cpu) :
    (shifted r co c).cpu.writeA (shifted r co c).result = { c with a := r, p := withNZC r co c.p } := by
  simp only [shifted, writeA_eq, Cpu.putFlag, Flag.bit, withNZ_putC]

/-- Settles O27: the moved bits are `shiftResult`'s, in the accumulator or in memory. -/
theorem shiftsMoveOneBitThroughTheCarry : Obligations.ShiftsMoveOneBitThroughTheCarry := by
  intro i s h
  obtain ⟨f, hf⟩ := modifyOp_iff.2 (List.mem_append_right [.inc, .dec] h)
  rcases exec_modify i f hf s with ⟨hacc, answer⟩ | ⟨m, hmem, answer⟩
  · simp only [shift_eq h hf, writeA_shifted] at answer
    exact .inl ⟨hacc, answer⟩
  · simp only [shift_eq h hf, shifted_eq] at answer
    exact .inr ⟨m, hmem, answer⟩

/-! ### Jumps -/

/-- Settles O28: an absolute jump writes `PC`, an indirect one reads its pointer first. -/
theorem jumpsLoadThePC : Obligations.JumpsLoadThePC := by
  intro a s
  refine ⟨rfl, ?_⟩
  show finish 0x6C 0 ((indirect a s).state.mapCpu (Cpu.setPC (indirect a s).value)) = _
  simp only [finish, State.mapCpu, indirect_cpu, indirect_cfg]
  rfl

/-! ### The cycle of an instruction -/

theorem fetchBytes_cpu (n : Nat) (s : State) :
    (fetchBytes n s).state.cpu = { s.cpu with pc := s.cpu.pc + BitVec.ofNat 16 n } := by
  induction n generalizing s with
  | zero => rw [fetchBytes, BitVec.add_zero]
  | succ n ih =>
    have hpc : s.cpu.pc + 1 + BitVec.ofNat 16 n = s.cpu.pc + BitVec.ofNat 16 (n + 1) := by
      rw [Nat.add_comm n 1, ← BitVec.ofNat_add_ofNat, ← BitVec.add_assoc]
      rfl
    simp only [fetchBytes, ih, fetch_cpu, hpc]

/-- Settles O44: the fetching cycle runs the instruction its bytes decode to, and each fetch advances `PC` by one. -/
theorem stepRunsTheDecodedInstruction : Obligations.StepRunsTheDecodedInstruction := by
  intro s n i hdma hhalt hpending hdecode
  refine ⟨?_, fetchBytes_cpu n s⟩
  rw [step, sysCycle, driveBus_processor hdma, cpuCycle_fetching hhalt hpending, fetchExecute_of_decode hdecode]

/-- Settles O45: a fetching cycle whose opcode byte has no table entry records the halt. -/
theorem unmappedOpcodeHalts : Obligations.UnmappedOpcodeHalts := by
  intro s hhalt hpending f hop
  have hfetch : decodeOpcode (fetch s).value = none := hop
  rw [cpuCycle_fetching hhalt hpending, fetchExecute, hfetch, fetch_eq]
  rfl

/-- Settles O47, by whether a session is active, then by what the processor's cycle is. -/
theorem systemCycleOrder : Obligations.SystemCycleOrder := by
  intro s
  refine ⟨fun d hd => ?_, fun hd => ?_, fun hd hhalt hpending => ?_⟩
  · rw [step, sysCycle, driveBus_session hd]
    rfl
  · rw [step, sysCycle, driveBus_processor hd]
    rfl
  · have hrunning : ¬ s.halted = true := fun h => (halted_iff s).1 h hhalt
    rw [step, sysCycle, driveBus_processor hd, cpuCycle, if_neg hrunning, if_pos hpending]
    rfl

end Sys2Proof.Machine
end

section
/-! SUPPORT. The instructions that change registers only, and the transfers among them. -/

namespace Sys2Proof.Machine

/-- The operation of a mnemonic that reads and writes registers only. -/
def impliedOp (m : Mnemonic) : Option (Cpu → Cpu) :=
  match m with
  | .tax => some fun c => c.writeX c.a
  | .tay => some fun c => c.writeY c.a
  | .txa => some fun c => c.writeA c.x
  | .tya => some fun c => c.writeA c.y
  | .tsx => some fun c => c.writeX c.s
  | .txs => some fun c => c.writeS c.x
  | .inx => some fun c => c.writeX (c.x + 1)
  | .iny => some fun c => c.writeY (c.y + 1)
  | .dex => some fun c => c.writeX (c.x - 1)
  | .dey => some fun c => c.writeY (c.y - 1)
  | .clc => some (Cpu.putFlag .C false)
  | .sec => some (Cpu.putFlag .C true)
  | .cli => some (Cpu.putFlag .I false)
  | .sei => some (Cpu.putFlag .I true)
  | .clv => some (Cpu.putFlag .V false)
  | .cld => some (Cpu.putFlag .D false)
  | .sed => some (Cpu.putFlag .D true)
  | .nop => some id
  | _ => none

/-- Every such form: the operation changes the processor, the latency is owed, nothing else changes. -/
theorem exec_implied {i : Instr} {f : Cpu → Cpu} (h : impliedOp i.mnemonic = some f) (s : State) :
    exec i s = .next { s with cpu := { f s.cpu with pending := owed i 0 s } } := by
  cases i <;> cases h <;> rfl

/-- Settles O19: each is a register write from another register; only that of `S` is without `SetNZ`. -/
theorem transfersCopyTheRegister : Obligations.TransfersCopyTheRegister := by
  refine ⟨fun e he => ?encoding, fun s => ⟨?tax, ?tay, ?txa, ?tya, ?tsx, ?txs⟩⟩
  case encoding => fin_cases he <;> exact ⟨rfl, rfl⟩
  case tax => rw [exec_implied (i := .tax) rfl, writeX_eq]
  case tay => rw [exec_implied (i := .tay) rfl, writeY_eq]
  case txa => rw [exec_implied (i := .txa) rfl, writeA_eq]
  case tya => rw [exec_implied (i := .tya) rfl, writeA_eq]
  case tsx => rw [exec_implied (i := .tsx) rfl, writeX_eq]
  case txs => exact exec_implied (i := .txs) rfl s

end Sys2Proof.Machine
end

section
/-! SUPPORT. The increments and decrements of the index registers. -/

namespace Sys2Proof.Machine

/-- Settles O26: each writes its index register with the byte after it or before it, wrapping. -/
theorem indexIncrementsWrapAndSetNZ : Obligations.IndexIncrementsWrapAndSetNZ := by
  refine ⟨fun e he => ?encoding, fun s => ⟨?inx, ?iny, ?dex, ?dey⟩⟩
  case encoding => fin_cases he <;> exact ⟨rfl, rfl⟩
  case inx => rw [exec_implied (i := .inx) rfl, writeX_eq, byte_add_one]
  case iny => rw [exec_implied (i := .iny) rfl, writeY_eq, byte_add_one]
  case dex => rw [exec_implied (i := .dex) rfl, writeX_eq, byte_sub_one]
  case dey => rw [exec_implied (i := .dey) rfl, writeY_eq, byte_sub_one]

end Sys2Proof.Machine
end

section
/-! SUPPORT. The subroutine round trip, and the branches by their mnemonics. -/

namespace Sys2Proof.Machine

/-! ### A word pushed and popped again -/

/-- `S` after two pushes and two pops is the old one, wrap included (D15). -/
theorem stackPointer_restored (b : Byte) : b - 1 - 1 + 1 + 1 = b := by
  rw [BitVec.sub_add_cancel, BitVec.sub_add_cancel]

/-- A word pops as it was pushed (R97) from any state with the pushed stack page and `S`. -/
theorem popWord_value_of_pushWord {a : Addr} {s t : State} (hram : t.ram = (pushWord a s).ram)
    (hs : t.cpu.s = s.cpu.s - 1 - 1) : (popWord t).value = a := by
  have hne : 256 + s.cpu.s.toNat ≠ 256 + (s.cpu.s - 1).toNat := by bv_omega
  have hlo : Memory.read t.ram (256 + (t.cpu.s + 1).toNat) = loByte a := by
    rw [hram, hs, pushWord_eq, BitVec.sub_add_cancel, Memory.read_write_same]
  have hhi : Memory.read t.ram (256 + (t.cpu.s + 1 + 1).toNat) = hiByte a := by
    rw [hram, hs, pushWord_eq, stackPointer_restored, Memory.read_write_other _ _ hne,
      Memory.read_write_same]
  rw [popWord_eq]
  dsimp only
  rw [hlo, hhi, wordOf_loByte_hiByte]

/-- JSR over the word operation (R201). -/
theorem exec_jsr (a : Addr) (s : State) :
    exec (.jsr a) s = .next { pushWord (s.cpu.pc - 1) s with
      cpu := { s.cpu with s := s.cpu.s - 1 - 1, pc := a, pending := owed (.jsr a) 0 s } } := by
  show finish 0x20 0 ((pushWord (s.cpu.pc - 1) s).mapCpu (Cpu.setPC a)) = _
  rw [pushWord_eq]
  rfl

/-- RTS over the word operation (R202). -/
theorem exec_rts (s : State) :
    exec .rts s = .next { (popWord s).state with
      cpu := { s.cpu with s := s.cpu.s + 1 + 1, pc := (popWord s).value + 1, pending := owed .rts 0 s } } := by
  show finish 0x60 0 ((popWord s).state.mapCpu (Cpu.setPC ((popWord s).value + 1))) = _
  rw [popWord_eq]
  rfl

/-- Settles O31: RTS pops the word `PC - 1` that JSR pushed and adds 1 to it. -/
theorem rtsReturnsAfterTheJsr : Obligations.RtsReturnsAfterTheJsr := by
  intro a s
  refine ⟨_, _, exec_jsr a s, rfl, exec_rts _, ?pc, ?stackPointer, rfl⟩
  case pc =>
    show (popWord _).value + 1 = s.cpu.pc
    rw [popWord_value_of_pushWord (a := s.cpu.pc - 1) (s := s) ?_ ?_, BitVec.sub_add_cancel]
    · rfl
    · rfl
  case stackPointer => exact stackPointer_restored s.cpu.s

/-! ### Branches -/

/-- A branch mnemonic's instruction is a `branch` on its opcode, its condition and its displacement. -/
theorem exec_branch {i : Instr} (h : i.mnemonic ∈ [.bcc, .bcs, .beq, .bne, .bmi, .bpl, .bvc, .bvs]) (s : State) :
    ∃ d, i.operand = .rel d ∧ exec i s = branch i.opcode (branchCondition i.mnemonic s.cpu.p) d s := by
  cases i
  case bcc d | bcs d | beq d | bne d | bmi d | bpl d | bvc d | bvs d => exact ⟨d, rfl, rfl⟩
  all_goals simp [Instr.mnemonic, describe] at h

/-- Settles O32: what a branch answers, on the condition of the mnemonic. -/
theorem branchesTestTheirFlag : Obligations.BranchesTestTheirFlag := by
  intro i s h
  obtain ⟨d, operand, answer⟩ := exec_branch h s
  exact ⟨d, operand, answer.trans (branch_eq ..)⟩

end Sys2Proof.Machine
end

section
/-! SUPPORT. The flag instructions, the entry of BRK, and the return that undoes a handler's entry. -/

namespace Sys2Proof.Machine

/-! ### Flags -/

/-- Settles O34: each writes one bit of `P`, NOP none. -/
theorem flagInstructionsWriteOneFlag : Obligations.FlagInstructionsWriteOneFlag := by
  refine ⟨fun e he => ?encoding, fun s => ⟨?clc, ?sec, ?cli, ?sei, ?clv, ?cld, ?sed, ?nop⟩⟩
  case encoding => fin_cases he <;> exact ⟨rfl, rfl⟩
  case clc => rw [exec_implied (i := .clc) rfl, ← putFlagC_eq]; rfl
  case sec => rw [exec_implied (i := .sec) rfl, ← putFlagC_eq]; rfl
  case cli => rw [exec_implied (i := .cli) rfl, ← putFlagI_eq]; rfl
  case sei => rw [exec_implied (i := .sei) rfl, ← putFlagI_eq]; rfl
  case clv => rw [exec_implied (i := .clv) rfl, ← putFlagV_eq]; rfl
  case cld => rw [exec_implied (i := .cld) rfl, ← putFlagD_eq]; rfl
  case sed => rw [exec_implied (i := .sed) rfl, ← putFlagD_eq]; rfl
  case nop => exact exec_implied (i := .nop) rfl s

/-! ### The entry of BRK -/

theorem word_add_one (a : Addr) : a + 1 = BitVec.ofNat 16 (a.toNat + 1) := by
  apply BitVec.eq_of_toNat_eq
  rw [BitVec.toNat_add, BitVec.toNat_ofNat]
  rfl

/-- Settles O35: a handler entry with the byte after the padding as its return address, then `I` is set. -/
theorem brkEntersItsHandler : Obligations.BrkEntersItsHandler := by
  intro s
  show finish 0x00 0 (enterHandler (s.cpu.pc + 1) true brkVector s) = _
  rw [enterHandler_eq _ brkVector true (by decide) (by decide), word_add_one]
  dsimp only
  rw [← putFlagI_eq]
  rfl

/-! ### The return after an entry -/

/-- A stack pointer moved by `k`, then by `j`, is moved by both, wrapping in the page (D15). -/
theorem byte_ofNat_toNat_add (k j : Nat) : BitVec.ofNat 8 ((BitVec.ofNat 8 k).toNat + j) = BitVec.ofNat 8 (k + j) := by
  apply BitVec.eq_of_toNat_eq
  simp only [BitVec.toNat_ofNat]
  omega

/-- The three bytes an entry saves, in the order a return pops them; no two of their addresses coincide, the wrap in the
page (D15) included. -/
theorem read_ram_entered (ret : Addr) (vector : Nat) (s : State) :
    let saved := Memory.read (entered ret vector s).ram
    saved (256 + (BitVec.ofNat 8 (s.cpu.s.toNat + 254)).toNat) = s.cpu.p ||| 0x30 ∧
    saved (256 + (BitVec.ofNat 8 (s.cpu.s.toNat + 255)).toNat) = loByte ret ∧
    saved (256 + s.cpu.s.toNat) = hiByte ret := by
  have hlt := s.cpu.s.isLt
  simp only [entered, Memory.read_write, BitVec.toNat_ofNat, hiByte_eq, loByte_eq, if_true]
  refine ⟨trivial, ?low, ?high⟩
  case low => exact if_neg (by omega)
  case high => rw [if_neg (by omega), if_neg (by omega)]

/-- RTI from any state with the stack page and the stack pointer of an entry restores what the entry saved (R251). -/
theorem exec_rti_of_entered {ret : Addr} {vector : Nat} {s t : State} (hram : t.ram = (entered ret vector s).ram)
    (hs : t.cpu.s = (entered ret vector s).cpu.s) :
    ∃ u, exec .rti t = .next u ∧ u.cpu.pc = ret ∧ u.cpu.p = s.cpu.p ||| 0x30 ∧ u.cpu.s = s.cpu.s := by
  obtain ⟨status, low, high⟩ := read_ram_entered ret vector s
  have popped (j : Nat) : BitVec.ofNat 8 (t.cpu.s.toNat + j) = BitVec.ofNat 8 (s.cpu.s.toNat + (253 + j)) := by
    rw [hs, ← Nat.add_assoc]
    exact byte_ofNat_toNat_add _ j
  have top : BitVec.ofNat 8 (s.cpu.s.toNat + (253 + 3)) = s.cpu.s := by
    rw [byte_ofNat_reduce s.cpu.s 0, Nat.add_zero, BitVec.ofNat_toNat, BitVec.setWidth_eq]
  refine ⟨_, rtiRestoresStatusAndPC t, ?pc, ?p, ?stackPointer⟩
  case pc =>
    dsimp only
    rw [popped, popped, top, hram, low, high, ← wordOf_eq, wordOf_loByte_hiByte]
  case p =>
    dsimp only
    rw [popped, hram, status, BitVec.or_assoc, BitVec.or_self]
  case stackPointer => exact (popped 3).trans top

/-- Settles O38: both entries leave the stack page and the stack pointer of `entered`, from which RTI restores. -/
theorem rtiUndoesTheEntry : Obligations.RtiUndoesTheEntry := by
  intro s
  refine ⟨?brk, fun running => ?nmi⟩
  case brk =>
    simp only [exists_and_left]
    exact ⟨_, brkEntersItsHandler s, exec_rti_of_entered (vector := 0xFFFE) rfl rfl⟩
  case nmi =>
    rw [nmi_running running]
    exact exec_rti_of_entered (vector := 0xFFFA) rfl rfl

end Sys2Proof.Machine
end

section
/-! SUPPORT. The safe sequence of register 6 (70_reset_and_hazards.md R312): a read of register 2 clears the write toggle,
and two writes of register 6 then compose the address latch. -/

namespace Sys2Proof.Machine

/-- A read of register 2 clears the write toggle (60_exceptions.md R260). -/
theorem busRead_statusRegister_w (s : State) : (busRead 0x2002 s).state.ppu.w = false := by
  rw [busRead_of_window ⟨by decide, by decide⟩, ofAddr_of_number .status (by decide)]
  rfl

/-- A write at 0x2006 is, for the Picture Unit, a write of register 6. -/
theorem busWrite_addressRegister_ppu (b : Byte) (s : State) :
    (busWrite 0x2006 b s).ppu = s.ppu.writeAddress b := by
  rw [busWrite_eq, if_pos (by decide), ofAddr_of_number .address (by decide)]
  rfl

/-- From a clear toggle, two writes of register 6 load `t` and `v` with the 14 bits written (60_exceptions.md R268). -/
theorem Ppu.writeAddress_pair (hi lo : Byte) {p : Ppu} (h : p.w = false) :
    (p.writeAddress hi).writeAddress lo =
      let latch := BitVec.ofNat 14 (256 * hi.toNat + lo.toNat)
      { p with addrLast := lo, t := latch, v := latch, w := false } := by
  have composed (t : PicAddr) : ((hi.extractLsb' 0 6 ++ t.extractLsb' 0 8 : PicAddr).extractLsb' 8 6 ++ lo : PicAddr) =
      BitVec.ofNat 14 (256 * hi.toNat + lo.toNat) := by
    rw [latch_low, latch_high]
    apply BitVec.eq_of_toNat_eq
    simp only [BitVec.toNat_ofNat]
    omega
  simp only [Ppu.writeAddress, h, Bool.false_eq_true, if_false, if_true, composed]

/-- Settles O16: the read clears the toggle, so the first write is the high half and the second the low. -/
theorem addressWritePairComposesTheLatch : Obligations.AddressWritePairComposesTheLatch := by
  intro hi lo s t
  have ht : t.ppu = (Ppu.writeAddress hi (busRead 0x2002 s).state.ppu).writeAddress lo := by
    rw [busWrite_addressRegister_ppu, busWrite_addressRegister_ppu]
  rw [ht, Ppu.writeAddress_pair hi lo (busRead_statusRegister_w s)]
  exact ⟨rfl, rfl, rfl, rfl⟩

end Sys2Proof.Machine
end

section
/-! SUPPORT. The interrupt entry and the halt (60_exceptions.md R241, R244, R245). -/

namespace Sys2Proof.Machine

/-- Settles O37: the two branches of `nmi`, the running one in closed form. -/
theorem nmiEntersItsHandler : Obligations.NmiEntersItsHandler := fun _ => ⟨nmi_running, nmi_halted⟩

/-- While the processor is halted, neither the bus cycle, a DMA session's or its own, nor the dots change it. -/
theorem step_halted_cpu {s t : State} (h : s.cpu.halt ≠ none) (he : step s = .next t) : t.cpu = s.cpu := by
  obtain ⟨u, hu, rfl⟩ := step_cases he
  have hcpu : u.cpu = s.cpu := by
    cases hd : s.dma with
    | none =>
      rw [driveBus_processor hd, cpuCycle_halted h] at hu
      cases hu
      rfl
    | some d =>
      rw [driveBus_session hd] at hu
      cases hu
      exact dmaCycle_cpu d s
  obtain ⟨-, -, dots⟩ := threeDots_keeps u
  exact (dots (hcpu ▸ h)).trans hcpu

/-- Settles O46, part by part: the halted processor's cycle and interrupt do nothing, the system cycle does the rest. -/
theorem haltIsPermanent : Obligations.HaltIsPermanent := by
  intro s h
  obtain ⟨session, processor, -⟩ := systemCycleOrder s
  obtain ⟨t, ht, -⟩ := everyStepCompletes s
  refine ⟨cpuCycle_halted h, nmi_halted h, session, fun hd => ?_, ⟨t, ht, step_halted_cpu h ht⟩, rfl⟩
  rw [processor hd, cpuCycle_halted h]
  rfl

end Sys2Proof.Machine
end

section
/-! SUPPORT. The DMA Controller's cycle, and a whole session from its page (60_exceptions.md R272, R273). -/

namespace Sys2Proof.Machine

/-- Settles O49, by the session's phase. -/
theorem dmaCycleAlternates : Obligations.DmaCycleAlternates := by
  intro d s
  refine ⟨fun fetching => ?_, fun storing => ?_⟩
  · have source : d.sourceBase + BitVec.ofNat 16 d.cursor = BitVec.ofNat 16 (d.sourceBase.toNat + d.cursor) := by
      rw [BitVec.ofNat_add, BitVec.ofNat_toNat, BitVec.setWidth_eq]
    rw [← source, dmaCycle, fetching]
  · rw [dmaCycle, storing]
    dsimp only
    split <;> rfl

/-- The session lasts through both cycles of each of its 256 bytes. -/
theorem driveDma_active (b : Byte) (s : State) {j : Nat} (hj : j < 512) : (driveDma j (dmaBegin b s)).dma ≠ none := by
  have hk : j / 2 < 256 := by omega
  obtain ⟨latch, hs⟩ := (dma_copied b s (Nat.le_of_lt hk)).session hk
  rcases Nat.mod_two_eq_zero_or_one j with even | odd
  · rw [show j = 2 * (j / 2) by omega, hs]
    exact Option.some_ne_none _
  · rw [show j = 2 * (j / 2) + 1 by omega, driveDma_add, driveDma_session 0 hs]
    exact Option.some_ne_none _

/-- Settles O50: the session lasts 512 cycles, after which all 256 bytes have been moved. -/
theorem dmaCopiesTheWholePage : Obligations.DmaCopiesTheWholePage := by
  intro b s s0
  have copied : Copied b s 256 (driveDma 512 s0) := dma_copied b s (Nat.le_refl 256)
  refine ⟨fun _ => driveDma_active b s, copied.ended rfl, BitVec.eq_of_toNat_eq ?_, copied.bytes⟩
  rw [copied.oamaddr, Nat.add_mod_right, Nat.mod_eq_of_lt s.ppu.oamaddr.isLt]

end Sys2Proof.Machine
end

section
/-! SUPPORT. One dot of the Picture Unit: the three addresses of a pixel and its colour, the counters' three ways to advance,
the frame wrap (60_exceptions.md R256 to R258). -/

namespace Sys2Proof.Machine

/-! ### A pixel -/

/-- The nametable byte of a pixel of the visible raster stands in picture RAM, row by row of 32 tiles. -/
theorem picRead_nametableAddr {x y : Nat} (hx : x < 256) (hy : y < 240) (s : State) :
    (picRead (nametableAddr x y) s).value = Memory.read s.vram (32 * (y / 8) + x / 8) := by
  have ha : (nametableAddr x y).toNat = 0x2000 + 32 * (y / 8) + x / 8 := by
    simp only [nametableAddr, BitVec.toNat_ofNat, Nat.shiftRight_eq_div_pow]
    omega
  rw [picRead_eq, if_pos ((bit13_iff _).2 (by omega)), ha]
  dsimp only
  congr 1
  omega

/-- A plane byte of a pixel's row stands in the pattern ROM: eight rows to a plane, two planes to a tile. -/
theorem picRead_planeAddr (bgBase : Bool) (tile : Byte) {plane : Nat} (hp : plane ≤ 1) (y : Nat) (s : State) :
    (picRead (planeAddr bgBase tile plane y) s).value =
      Memory.read s.cfg.chr ((if bgBase then 4096 else 0) + 16 * tile.toNat + 8 * plane + y % 8) := by
  have htile := tile.isLt
  have hbase : (if bgBase then 4096 else 0) ≤ 4096 := by cases bgBase <;> decide
  have ha : (planeAddr bgBase tile plane y).toNat =
      (if bgBase then 4096 else 0) + 16 * tile.toNat + 8 * plane + y % 8 := by
    rw [planeAddr, BitVec.toNat_ofNat, and_seven]
    exact Nat.mod_eq_of_lt (by omega)
  have hrom : ¬ (planeAddr bgBase tile plane y).getLsbD 13 = true := by
    rw [bit13_iff]
    omega
  rw [picRead_eq, if_neg hrom, ha, Nat.mod_eq_of_lt (by omega)]

/-- The colour of a pixel, from the arrays (R257). -/
def pixelColour (x y : Nat) (s : State) : Rgb :=
  let tile := (Memory.read s.vram (32 * (y / 8) + x / 8)).toNat
  let base := if s.ppu.ctrl.getLsbD 4 then 4096 else 0
  let p0 := Memory.read s.cfg.chr (base + 16 * tile + y % 8)
  let p1 := Memory.read s.cfg.chr (base + 16 * tile + 8 + y % 8)
  let bit := 7 - x % 8
  paletteOf s.cfg (BitVec.ofNat 2 (2 * (p1.getLsbD bit).toNat + (p0.getLsbD bit).toNat))

@[simp] theorem picRead_cfg (a : PicAddr) (s : State) : (picRead a s).state.cfg = s.cfg := by rw [picRead_eq]

@[simp] theorem picRead_ppu (a : PicAddr) (s : State) : (picRead a s).state.ppu = s.ppu := by rw [picRead_eq]

/-- The pixel a dot of the visible raster puts into the frame buffer. -/
theorem producePixel_fb {x y : Nat} (hx : x < 256) (hy : y < 240) (s : State) :
    (producePixel x y s).ppu.fb = Sparse.put (pixelKey x y) (pixelColour x y s) s.ppu.fb := by
  simp only [producePixel, State.mapPpu_ppu, picRead_ppu, picRead_nametableAddr hx hy, picRead_planeAddr, Nat.zero_le,
    Nat.le_refl, picRead_cfg, colourIndex_eq, and_seven, Nat.mul_zero, Nat.mul_one, Nat.add_zero]
  rfl

/-- Pixels in range have different keys. -/
theorem pixelKey_inj {x y x' y' : Nat} (hx : x < 256) (hx' : x' < 256) (h : pixelKey x' y' = pixelKey x y) :
    x' = x ∧ y' = y := by
  simp only [pixelKey] at h
  omega

/-- Settles O52: one entry of the frame buffer is put, at a key of the pixel's own. -/
theorem pixelProduction : Obligations.PixelProduction := by
  intro x y s hx hy
  refine ⟨?colour, fun x' y' hx' hne => ?others, producePixel_changes x y s⟩
  case colour =>
    rw [State.pixel, producePixel_fb hx hy, Sparse.lookup_put_same]
    rfl
  case others =>
    have hkey : pixelKey x' y' ≠ pixelKey x y := fun h => by
      obtain ⟨rfl, rfl⟩ := pixelKey_inj hx hx' h
      exact hne.elim (· rfl) (· rfl)
    rw [State.pixel, producePixel_fb hx hy, Sparse.lookup_put_other hkey, State.pixel]

/-! ### The counters -/

/-- The pixel of a dot, before its counters advance (R256). -/
def beforeAdvance (s : State) : State :=
  if s.ppu.mask.getLsbD 3 = true ∧ s.ppu.scanline < 240 ∧ s.ppu.dot < 256 then
    producePixel s.ppu.dot s.ppu.scanline s
  else s

theorem ppuDot_eq (s : State) : ppuDot s = advanceDot (beforeAdvance s) := by
  simp only [ppuDot, rendering_iff, beforeAdvance]

/-- A pixel moves no counter. -/
theorem beforeAdvance_changes (s : State) :
    beforeAdvance s = { s with
      picBus := (beforeAdvance s).picBus
      ppu := { s.ppu with fb := (beforeAdvance s).ppu.fb } } := by
  rw [beforeAdvance]
  split
  · exact producePixel_changes ..
  · rfl

@[simp] theorem beforeAdvance_dot (s : State) : (beforeAdvance s).ppu.dot = s.ppu.dot := by rw [beforeAdvance_changes]

@[simp] theorem beforeAdvance_scanline (s : State) : (beforeAdvance s).ppu.scanline = s.ppu.scanline := by
  rw [beforeAdvance_changes]

/-- Past the visible raster a dot produces no pixel. -/
theorem beforeAdvance_of_blank {s : State} (h : 256 ≤ s.ppu.dot) : beforeAdvance s = s :=
  if_neg fun ⟨_, _, hdot⟩ => by omega

/-- The three ways a dot ends, from counters in range: inside a scanline, at its end, at the frame's end. -/
theorem ppuDot_advances {s : State} (hd : s.ppu.dot ≤ 340) (hs : s.ppu.scanline ≤ 261) :
    ppuDot s =
      if s.ppu.dot < 340 then (beforeAdvance s).mapPpu fun p => { p with dot := s.ppu.dot + 1 }
      else if s.ppu.scanline < 261 then
        (beforeAdvance s).mapPpu fun p => { p with dot := 0, scanline := s.ppu.scanline + 1 }
      else frameWrap (s.mapPpu fun p => { p with dot := 0, scanline := 0 }) := by
  rw [ppuDot_eq, advanceDot_eq (by simpa using hd) (by simpa using hs), beforeAdvance_dot, beforeAdvance_scanline]
  by_cases hend : s.ppu.dot < 340
  · rw [if_pos hend, if_pos hend, State.mapPpu, beforeAdvance_dot]
    rfl
  · rw [if_neg hend, if_neg hend, State.mapPpu, beforeAdvance_scanline, beforeAdvance_of_blank (by omega)]
    rfl

/-- Settles O53, clause by clause. -/
theorem dotAdvancesTheCounters : Obligations.DotAdvancesTheCounters := by
  intro s hd hs q
  refine ⟨fun inside => ?_, fun last inside => ?_, fun last atEnd => ?_⟩
  · rw [ppuDot_advances hd hs, if_pos inside]
    rfl
  · rw [ppuDot_advances hd hs, if_neg (by omega), if_pos inside]
    rfl
  · rw [ppuDot_advances hd hs, if_neg (by omega), if_neg (by omega)]
    rfl

/-- Settles O54, by the control register's bit 7. -/
theorem frameWrapRaisesTheInterrupt : Obligations.FrameWrapRaisesTheInterrupt := by
  intro s q
  refine ⟨fun enabled => ?_, fun disabled => ?_⟩
  · rw [frameWrap_eq, enabled]
    rfl
  · rw [frameWrap_eq, disabled]
    rfl

end Sys2Proof.Machine
end

section
/-! SUPPORT. Dots driven one after another (60_exceptions.md R256, R258): up to the frame's end they change the raster alone,
the last dot wraps the frame, and the dots of one frame's length meet that end once. -/

namespace Sys2Proof.Machine

/-- The counters in their ranges (10_state.md R58). -/
structure InFrame (s : State) : Prop where
  dot : s.ppu.dot ≤ 340
  scanline : s.ppu.scanline ≤ 261

theorem InFrame.dotsDone_lt {s : State} (h : InFrame s) : dotsDone s < 341 * 262 := by
  have := h.dot
  have := h.scanline
  rw [dotsDone]
  omega

/-- The same machine but for the raster: the counters, the frame buffer and the picture-bus latches. -/
def SameButRaster (s t : State) : Prop :=
  ∃ picBus dot scanline fb,
    t = { s with picBus := picBus, ppu := { s.ppu with dot := dot, scanline := scanline, fb := fb } }

namespace SameButRaster

variable {s t u : State}

theorem refl (s : State) : SameButRaster s s := ⟨_, _, _, _, rfl⟩

theorem trans (h : SameButRaster s t) (k : SameButRaster t u) : SameButRaster s u := by
  obtain ⟨_, _, _, _, rfl⟩ := h
  obtain ⟨_, _, _, _, rfl⟩ := k
  exact ⟨_, _, _, _, rfl⟩

theorem cpu (h : SameButRaster s t) : t.cpu = s.cpu := by
  obtain ⟨_, _, _, _, rfl⟩ := h
  rfl

theorem ram (h : SameButRaster s t) : t.ram = s.ram := by
  obtain ⟨_, _, _, _, rfl⟩ := h
  rfl

theorem status (h : SameButRaster s t) : t.ppu.status = s.ppu.status := by
  obtain ⟨_, _, _, _, rfl⟩ := h
  rfl

theorem frame (h : SameButRaster s t) : t.ppu.frame = s.ppu.frame := by
  obtain ⟨_, _, _, _, rfl⟩ := h
  rfl

theorem frameReady (h : SameButRaster s t) : t.ppu.frameReady = s.ppu.frameReady := by
  obtain ⟨_, _, _, _, rfl⟩ := h
  rfl

theorem ctrl (h : SameButRaster s t) : t.ppu.ctrl = s.ppu.ctrl := by
  obtain ⟨_, _, _, _, rfl⟩ := h
  rfl

/-- An interrupt entry reads nothing of the raster. -/
theorem nmi (h : SameButRaster s t) : SameButRaster (nmi s) (nmi t) := by
  obtain ⟨_, _, _, _, rfl⟩ := h
  by_cases running : s.cpu.halt = none
  · rw [nmi_running running, nmi_running (by exact running)]
    exact ⟨_, _, _, _, rfl⟩
  · rw [nmi_halted running, nmi_halted (by exact running)]
    exact ⟨_, _, _, _, rfl⟩

/-- A frame wrap reads nothing of the raster. -/
theorem frameWrap (h : SameButRaster s t) : SameButRaster (frameWrap s) (frameWrap t) := by
  have wrapped : SameButRaster
      (s.mapPpu fun p => { p with status := p.status ||| 0x80, frame := p.frame + 1, frameReady := true })
      (t.mapPpu fun p => { p with status := p.status ||| 0x80, frame := p.frame + 1, frameReady := true }) := by
    obtain ⟨_, _, _, _, rfl⟩ := h
    exact ⟨_, _, _, _, rfl⟩
  rw [frameWrap_eq, frameWrap_eq, h.ctrl]
  dsimp only
  split
  · exact wrapped.nmi
  · exact wrapped

theorem beforeAdvance (s : State) : SameButRaster s (beforeAdvance s) := by
  rw [beforeAdvance_changes]
  exact ⟨_, _, _, _, rfl⟩

end SameButRaster

/-! ### One dot -/

/-- A dot before the frame's last one: the next dot of the frame. -/
theorem ppuDot_inside {s : State} (h : InFrame s) (hlt : dotsDone s + 1 < 341 * 262) :
    InFrame (ppuDot s) ∧ dotsDone (ppuDot s) = dotsDone s + 1 ∧ SameButRaster s (ppuDot s) := by
  obtain ⟨hd, hs⟩ := h
  rw [dotsDone] at hlt
  rw [ppuDot_advances hd hs]
  split
  · refine ⟨⟨?_, ?_⟩, ?_, (SameButRaster.beforeAdvance s).trans ⟨_, _, _, _, rfl⟩⟩ <;>
      simp only [dotsDone, State.mapPpu_ppu, beforeAdvance_scanline] <;> omega
  · rw [if_pos (by omega)]
    refine ⟨⟨?_, ?_⟩, ?_, (SameButRaster.beforeAdvance s).trans ⟨_, _, _, _, rfl⟩⟩ <;>
      simp only [dotsDone, State.mapPpu_ppu] <;> omega

/-- The frame's last dot: the counters start again, and the frame wraps. -/
theorem ppuDot_last {s : State} (h : InFrame s) (hlast : dotsDone s + 1 = 341 * 262) :
    InFrame (ppuDot s) ∧ dotsDone (ppuDot s) = 0 ∧ SameButRaster (frameWrap s) (ppuDot s) := by
  obtain ⟨hd, hs⟩ := h
  rw [dotsDone] at hlast
  rw [ppuDot_advances hd hs, if_neg (by omega), if_neg (by omega)]
  obtain ⟨-, -, -, hppu⟩ := frameWrap_keeps (s.mapPpu fun p => { p with dot := 0, scanline := 0 })
  refine ⟨⟨?_, ?_⟩, ?_, SameButRaster.frameWrap ⟨_, _, _, _, rfl⟩⟩ <;> simp [dotsDone, hppu]

/-! ### Many dots -/

theorem driveDots_add (m n : Nat) (s : State) : driveDots (m + n) s = driveDots n (driveDots m s) := by
  induction m generalizing s with
  | zero => rw [Nat.zero_add, driveDots]
  | succ m ih => rw [Nat.succ_add, driveDots, driveDots, ih]

/-- Dots that stay before the frame's end. -/
theorem driveDots_inside {s : State} (h : InFrame s) {j : Nat} (hj : dotsDone s + j < 341 * 262) :
    InFrame (driveDots j s) ∧ dotsDone (driveDots j s) = dotsDone s + j ∧ SameButRaster s (driveDots j s) := by
  induction j with
  | zero => exact ⟨h, rfl, .refl s⟩
  | succ j ih =>
    obtain ⟨range, count, same⟩ := ih (by omega)
    obtain ⟨range', count', same'⟩ := ppuDot_inside range (by omega)
    rw [driveDots_last]
    exact ⟨range', by omega, same.trans same'⟩

/-- At most a frame's dots that reach the frame's end: those before it, the last one, those of the next frame. -/
theorem driveDots_wrapping {s : State} (h : InFrame s) {j : Nat} (hj : j ≤ 341 * 262)
    (hwrap : 341 * 262 ≤ dotsDone s + j) :
    InFrame (driveDots j s) ∧ dotsDone (driveDots j s) = dotsDone s + j - 341 * 262 ∧
      SameButRaster (frameWrap s) (driveDots j s) := by
  have hlt := h.dotsDone_lt
  obtain ⟨before, hbefore⟩ : ∃ n, dotsDone s + n + 1 = 341 * 262 := ⟨341 * 262 - 1 - dotsDone s, by omega⟩
  obtain ⟨after, rfl⟩ : ∃ n, j = before + 1 + n := ⟨j - (before + 1), by omega⟩
  obtain ⟨range, count, same⟩ := driveDots_inside h (j := before) (by omega)
  obtain ⟨range', count', same'⟩ := ppuDot_last range (by omega)
  obtain ⟨range'', count'', same''⟩ := driveDots_inside range' (j := after) (by omega)
  rw [driveDots_add, driveDots_last]
  exact ⟨range'', by omega, (same.frameWrap.trans same').trans same''⟩

/-- What a frame wrap does to the processor and RAM: an interrupt entry, if it is enabled and the processor runs. -/
theorem frameWrap_entry (s : State) :
    let e := entered s.cpu.pc 0xFFFA s
    let entry := s.ppu.ctrl.getLsbD 7 = true ∧ s.cpu.halt = none
    (entry →
      (frameWrap s).cpu = { e.cpu with pending := s.cpu.pending + s.cfg.nmiCycles } ∧ (frameWrap s).ram = e.ram) ∧
    (¬ entry → (frameWrap s).cpu = s.cpu ∧ (frameWrap s).ram = s.ram) := by
  refine ⟨fun ⟨enabled, running⟩ => ?_, fun noEntry => ?_⟩
  · rw [frameWrap_eq, enabled, if_pos rfl, nmi_running (by exact running)]
    exact ⟨rfl, rfl⟩
  · by_cases running : s.cpu.halt = none
    · rw [frameWrap_eq, if_neg fun enabled => noEntry ⟨enabled, running⟩]
      exact ⟨rfl, rfl⟩
    · obtain ⟨-, -, halted, -⟩ := frameWrap_keeps s
      exact halted running

/-- Settles O55: the dots stay before the frame's end, or they pass it once. -/
theorem frameTiming : Obligations.FrameTiming := by
  intro s j hd hs hj
  have h : InFrame s := ⟨hd, hs⟩
  have hlt := h.dotsDone_lt
  dsimp only
  rcases Nat.lt_or_ge (dotsDone s + j) (341 * 262) with inside | wrapping
  · obtain ⟨range, count, same⟩ := driveDots_inside h inside
    exact ⟨count.trans (Nat.mod_eq_of_lt inside).symm, range.dot, range.scanline,
      fun _ => ⟨same.frame, same.status, same.cpu, same.ram⟩, by omega⟩
  · obtain ⟨range, count, same⟩ := driveDots_wrapping h hj wrapping
    obtain ⟨-, -, -, hppu⟩ := frameWrap_keeps s
    refine ⟨by omega, range.dot, range.scanline, by omega, fun _ => ?_⟩
    rw [same.frame, same.status, same.frameReady, same.cpu, same.ram, hppu]
    exact ⟨rfl, rfl, rfl, frameWrap_entry s⟩

end Sys2Proof.Machine
end

section
/-! SUPPORT. `renderFrame()` (60_exceptions.md R281): the bus cycle touches no counter, so the dots of a system cycle are the
frame's next three, and 29781 system cycles hold more dots than a frame. -/

namespace Sys2Proof.Machine

theorem SameCounters.ofFetchExecute {s t : State} (he : fetchExecute s = .next t) : SameCounters s t := by
  have fetched := SameCounters.ofFetch s
  rw [fetchExecute] at he
  cases hf : decodeOpcode (fetch s).value with
  | none =>
    rw [hf] at he
    cases he
    exact fetched.mapCpu _
  | some form =>
    rw [hf] at he
    cases form with
    | f1 i => exact fetched.trans (.ofExec he)
    | f2 mk => exact (fetched.trans (.ofFetch _)).trans (.ofExec he)
    | f3 mk => exact ((fetched.trans (.ofFetch _)).trans (.ofFetch _)).trans (.ofExec he)

theorem SameCounters.ofCpuCycle {s t : State} (he : cpuCycle s = .next t) : SameCounters s t := by
  rw [cpuCycle] at he
  split at he
  · cases he
    exact .refl s
  · split at he
    · cases he
      exact (SameCounters.refl s).mapCpu _
    · exact .ofFetchExecute he

/-- Neither agent of the main bus touches the counters. -/
theorem SameCounters.ofDriveBus {s t : State} (he : driveBus s = .next t) : SameCounters s t := by
  cases hd : s.dma with
  | none => exact .ofCpuCycle (driveBus_processor hd ▸ he)
  | some d =>
    rw [driveBus_session hd] at he
    cases he
    exact .ofDmaCycle d s

theorem SameCounters.inFrame {s t : State} (h : SameCounters s t) (hs : InFrame s) : InFrame t :=
  ⟨h.dot ▸ hs.dot, h.scanline ▸ hs.scanline⟩

theorem SameCounters.dotsDone {s t : State} (h : SameCounters s t) : dotsDone t = dotsDone s := by
  rw [Machine.dotsDone, h.dot, h.scanline, Machine.dotsDone]

/-- From `s` to `t` the frame ended, at most two dots ago (R258). -/
structure FrameEnded (s t : State) : Prop where
  ready : t.ppu.frameReady = true
  frame : t.ppu.frame = s.ppu.frame + 1
  scanline : t.ppu.scanline = 0
  dot : t.ppu.dot ≤ 2

/-- From `s` to `t` three dots of the same frame passed. -/
structure FrameContinued (s t : State) : Prop where
  inFrame : InFrame t
  dots : dotsDone t = dotsDone s + 3
  ready : t.ppu.frameReady = s.ppu.frameReady
  frame : t.ppu.frame = s.ppu.frame

theorem threeDots_eq (s : State) : threeDots s = driveDots 3 s := rfl

/-- A step drives the frame's next three dots. -/
theorem step_frame {s t : State} (h : InFrame s) (he : step s = .next t) :
    dotsDone s + 3 < 341 * 262 ∧ FrameContinued s t ∨ 341 * 262 ≤ dotsDone s + 3 ∧ FrameEnded s t := by
  obtain ⟨u, hu, rfl⟩ := step_cases he
  have bus := SameCounters.ofDriveBus hu
  rw [← bus.dotsDone, threeDots_eq]
  rcases Nat.lt_or_ge (dotsDone u + 3) (341 * 262) with inside | wrapping
  · obtain ⟨range, count, same⟩ := driveDots_inside (bus.inFrame h) inside
    refine .inl ⟨inside, range, by rw [count, bus.dotsDone], ?_, ?_⟩
    · exact same.frameReady.trans bus.frameReady
    · exact same.frame.trans bus.frame
  · obtain ⟨range, count, same⟩ := driveDots_wrapping (bus.inFrame h) (j := 3) (by decide) wrapping
    obtain ⟨-, -, -, hppu⟩ := frameWrap_keeps u
    have hlt := (bus.inFrame h).dotsDone_lt
    have started : dotsDone (driveDots 3 u) ≤ 2 := by omega
    rw [dotsDone] at started
    refine .inr ⟨wrapping, ?_, ?_, by omega, by omega⟩
    · rw [same.frameReady, hppu]
    · rw [same.frame, hppu, bus.frame]

/-- The loop of `renderFrame`, once round. -/
theorem driveUntilFrame_succ {s t : State} (k : Nat) (he : step s = .next t) :
    driveUntilFrame (k + 1) s =
      if t.ppu.frameReady then .next (t.mapPpu fun p => { p with frameReady := false }) else driveUntilFrame k t := by
  rw [driveUntilFrame, he]

/-- With the signal down, enough cycles for the frame's remaining dots bring the loop to the frame's end. -/
theorem driveUntilFrame_completes {k : Nat} {s : State} (h : InFrame s) (down : s.ppu.frameReady = false)
    (hk : 341 * 262 ≤ dotsDone s + 3 * k) :
    ∃ t, driveUntilFrame k s = .next t ∧ t.ppu.frameReady = false ∧
      t.ppu.frame = s.ppu.frame + 1 ∧ t.ppu.scanline = 0 ∧ t.ppu.dot ≤ 2 := by
  induction k generalizing s with
  | zero =>
    have := h.dotsDone_lt
    omega
  | succ k ih =>
    obtain ⟨t, ht, -⟩ := everyStepCompletes s
    rw [driveUntilFrame_succ k ht]
    rcases step_frame h ht with ⟨-, inFrame, dots, ready, frame⟩ | ⟨-, ended⟩
    · have stillDown := ready.trans down
      rw [stillDown, if_neg Bool.false_ne_true, ← frame]
      exact ih inFrame stillDown (by omega)
    · rw [if_pos ended.ready]
      exact ⟨_, rfl, rfl, ended.frame, ended.scanline, ended.dot⟩

/-- A signal that is up stays up in a step. -/
theorem step_frameReady {s t : State} (h : InFrame s) (up : s.ppu.frameReady = true) (he : step s = .next t) :
    t.ppu.frameReady = true := by
  rcases step_frame h he with ⟨-, continued⟩ | ⟨-, ended⟩
  · exact continued.ready.trans up
  · exact ended.ready

/-- Settles O56: with the signal up the loop ends in its first cycle, else at the frame's end. -/
theorem renderFrameCompletes : Obligations.RenderFrameCompletes := by
  intro s hd hs
  have h : InFrame s := ⟨hd, hs⟩
  cases ready : s.ppu.frameReady with
  | true =>
    obtain ⟨t, ht, -⟩ := everyStepCompletes s
    have ended := driveUntilFrame_succ 29780 ht
    rw [if_pos (step_frameReady h ready ht)] at ended
    exact ⟨_, ended, rfl, nofun⟩
  | false =>
    obtain ⟨t, ht, down, completed⟩ := driveUntilFrame_completes (k := frameCycles) h ready (by
      rw [frameCycles]
      omega)
    exact ⟨t, ht, down, fun _ => completed⟩

end Sys2Proof.Machine
end

section
/-! SUPPORT. `reset()` (70_reset_and_hazards.md R301 to R303) and the launch state (R306): the vector lies in program ROM. -/

namespace Sys2Proof.Machine

/-- Settles O57: the two reads of the vector are reads of program ROM, and the registers do not depend on the old ones. -/
theorem resetDefinesTheProcessor : Obligations.ResetDefinesTheProcessor := by
  intro s
  have vector := read16_rom resetVector (by decide) (by decide) s
  simp only [wordOf_eq] at vector
  rw [hostReset, vector]
  rfl

/-- Settles O58: after `reset()` in its closed form, the empty cartridge's vector bytes are 0x00. -/
theorem launchStateIsPowerOnThenReset : Obligations.LaunchStateIsPowerOnThenReset := by
  rw [Obligations.LaunchStateIsPowerOnThenReset, resetDefinesTheProcessor]
  rfl

end Sys2Proof.Machine
end
